-- ==== Sys2Proof/Word.lean ====
section
/-! DEFINITION. The word types of the NV storage engine (00_scope.md rules R9, R11): bits are numbered from 0 at
the least significant end, every value is unsigned, and `+` on an n-bit field is addition modulo 2^n, which is
what `BitVec` gives. -/

namespace Sys2Proof

/-- One device byte. -/
abbrev Byte := BitVec 8

/-- A transport data word (`TW` = 16 bits, rule R9). -/
abbrev Half := BitVec 16

/-- A checksum, payload or host register word (`CKW` = 32 bits, rule R9). -/
abbrev Word := BitVec 32

/-- A packed Flash address: sector in bits 15..4, page in bits 3..0 (rule R96). -/
abbrev Packed := BitVec 16

/-- A byte address of the Flash array (24 bits, rule R10). -/
abbrev FlashAddr := BitVec 24

/-- A byte address in an FRAM: at most three address bytes (rules R9, R62). -/
abbrev FramAddr := BitVec 24

/-- A task index: the number of a request bit, 0..31; the smaller index has the higher priority (rule R90). -/
abbrev Task := Fin 32

end Sys2Proof
end

