-- ==== Sys2Proof/Config.lean ====
section
/-! DEFINITION. What an implementation fixes: the constants and parameters of 00_scope.md rule R9, the command bytes
of 30_encoding.md rule R100, the task table of rule R93 and the region map of 20_memory.md rule R66, each with the
spec's default; and the free values, which have no body. -/

namespace Sys2Proof

/-- The three devices of the shared transport (60_exceptions.md rule R260). -/
inductive Dev where
  | flash
  | fram1
  | fram2
  deriving DecidableEq, Repr

/-- What a Flash program does to a byte (`PROG_MODE`, rules R9 and R73). -/
inductive ProgMode where
  /-- A program can only clear bits. -/
  | and
  /-- A program replaces the byte. -/
  | overwrite
  deriving DecidableEq, Repr

/-- The use of a region of the Flash map (rule R66). -/
inductive RegionKind where
  | cal
  | dlog
  | poolTrip
  | poolAlarm
  | poolExt
  deriving DecidableEq, Repr

/-- One row of REGION_MAP: a range of sectors, both ends included (rule R66). -/
structure Region where
  kind  : RegionKind
  first : Nat
  last  : Nat
  deriving DecidableEq, Repr

/-- The operation classes of a request bit (rule R92); `unassigned` is the class named NONE. -/
inductive OpClass where
  | capture
  | rrWrite
  | rrRead
  | calWrite
  | calUnlock
  | pageWrite
  | eraseSector
  | eraseBlock
  | read
  | framWrite
  | unassigned
  deriving DecidableEq, Repr

/-- The name column of TASKCFG (rule R93): the client that a row serves, by which rule R94 orders the rows. `other` is a row
of another table that none of these names fits, and an unassigned row. -/
inductive TaskName where
  | capTrip
  | capAlarm
  | capExt
  | eidWrite
  | eidRead
  | peakWrite
  | peakRead
  | dlogErase
  | dlogWrite
  | tscaleWrite
  | tscaleRead
  | calUnlock
  | calAfeWrite
  | calAdcWrite
  | calInjWrite
  | calAfeRead
  | calAdcRead
  | calInjRead
  | flashRead
  | framRead
  | framWrite
  | sectorErase
  | blockErase
  | other
  deriving DecidableEq, Repr

/-- One row of TASKCFG (rules R91, R93): the name, the class, the legal devices and, for a record class, the record's
address, a byte address in an FRAM or a packed address in the Flash (rule R170), and payload length. No step reads the
name. -/
structure TaskCfg where
  name : TaskName
  cls  : OpClass
  devs : List Dev
  addr : FramAddr
  len  : Nat
  deriving DecidableEq, Repr

/-- The packed address of a record in the Flash. -/
def TaskCfg.packed (c : TaskCfg) : Packed := c.addr.setWidth 16

/-- The command bytes CMD_* (rule R100), and how many address bytes follow one that has an address (rules R9, R99): an
opcode byte fixes both (rule R101). -/
structure Commands where
  wren    : Byte
  rdsr    : Byte
  pp      : Byte
  se      : Byte
  be      : Byte
  unlock  : Byte
  protect : Byte
  read    : Byte
  fwren   : Byte
  fwrite  : Byte
  fread   : Byte
  /-- FLASH_ADDR_BYTES. -/
  flashAddrBytes : Nat
  /-- FRAM_ADDR_BYTES[1]. -/
  fram1AddrBytes : Nat
  /-- FRAM_ADDR_BYTES[2]. -/
  fram2AddrBytes : Nat
  deriving DecidableEq, Repr

/-- FLASH_ADDR_BYTES or FRAM_ADDR_BYTES of a device. -/
def Commands.addrBytesOf (c : Commands) : Dev → Nat
  | .flash => c.flashAddrBytes
  | .fram1 => c.fram1AddrBytes
  | .fram2 => c.fram2AddrBytes

/-- `DATA_WIDTH`: how many bits the data phase of a frame shifts at a time (rules R9, R70). -/
inductive DataWidth where
  | byteWide
  | wordWide
  deriving DecidableEq, Repr

/-- The build-time parameters of rule R9 that a model takes as an argument. No step changes them (rule R50). -/
structure Params where
  /-- REQ_W, the width of the REQ, ACK and SFLT words. -/
  reqW          : Nat
  /-- TW, the bits of a transport data word. -/
  tw            : Nat
  /-- TASKCFG. -/
  tasks         : Vector TaskCfg 32
  /-- REGION_MAP. -/
  regions       : List Region
  /-- CMD_*, FLASH_ADDR_BYTES and FRAM_ADDR_BYTES. -/
  cmds          : Commands
  /-- FLASH_SECTORS, the sectors of the Flash array. -/
  flashSectors  : Nat
  /-- BLOCK_SECTORS. -/
  blockSectors  : Nat
  /-- FRAM_BYTES[1]. -/
  framBytes1    : Nat
  /-- FRAM_BYTES[2]. -/
  framBytes2    : Nat
  /-- DATA_WIDTH of the Flash. -/
  flashWidth    : DataWidth
  /-- DATA_WIDTH of FRAM 1. -/
  fram1Width    : DataWidth
  /-- DATA_WIDTH of FRAM 2. -/
  fram2Width    : DataWidth
  /-- S_W, the 16-bit words of a sample-set. -/
  setWords      : Nat
  /-- RING_N, the ring's capacity in sample-sets. -/
  ringN         : Nat
  /-- L_MAX, the largest record payload in 32-bit words. -/
  lMax          : Nat
  /-- BUSY_BIT, the bit of the Flash status byte that reads 1 while busy (rule R102). -/
  busyBit       : Fin 8
  /-- RR_OFF_FRAM, in bytes. -/
  rrOffFram     : Nat
  /-- RR_OFF_FLASH, in packed units. -/
  rrOffFlash    : Packed
  /-- BUSY_POLL_LIMIT. -/
  busyPollLimit : Option Nat
  /-- PROG_MODE. -/
  progMode      : ProgMode
  /-- PROT_RESET, the reset value of PROT and of FLASH.BP. -/
  protReset     : Bool
  /-- PROTECT_DATA, the data bytes of the protect frame. -/
  protectData   : List Byte
  deriving DecidableEq, Repr

/-- FRAM_BYTES of a device; 0 for the Flash, which is no FRAM. -/
def Params.framBytes (p : Params) : Dev → Nat
  | .flash => 0
  | .fram1 => p.framBytes1
  | .fram2 => p.framBytes2

/-- DATA_WIDTH of a device. -/
def Params.dataWidth (p : Params) : Dev → DataWidth
  | .flash => p.flashWidth
  | .fram1 => p.fram1Width
  | .fram2 => p.fram2Width


namespace Config

/-! ### Fixed constants: what rule R9 quotes from the source, and the numbers that other rules state -/

/-- PAGE_WORDS: the most words one page program carries. -/
def pageWords : Nat := 128
/-- Bytes of a sector: sector `s` starts at byte 4096·s (rules R61, R74). -/
def sectorBytes : Nat := 4096
/-- The sectors that a field of SECTOR_BITS = 12 bits numbers (rule R96). -/
def sectorNumbers : Nat := 4096
/-- The bits of REQ, ACK and SFLT in the register map, one context for each (rules R22, R30). -/
def requestBits : Nat := 32
/-- SETS_PER_PAGE. -/
def setsPerPage : Nat := 7
/-- CAP_LEN. -/
def capLen : Nat := 2880
/-- The words of CTX[k].VAL and CTX[k].DFLT (rule R43): no record payload is longer. -/
def valWords : Nat := 62
/-- The most bytes an FRAM frame carries (rule R100). -/
def framFrameBytes : Nat := 256
/-- What a byte of a device array reads as when nothing has written it (DESIGN CHOICE, log entry 2), and what an
erased Flash byte reads as (rule R74). -/
def blankByte : Byte := 0xFF

end Config

/-! ### Derived sizes -/

/-- PAGE_BYTES = 2·PAGE_WORDS (rule R9): PAGE_WORDS transport words of TW bits. -/
def Params.pageBytes (p : Params) : Nat := Config.pageWords * (p.tw / 8)

/-- Bytes of the Flash array: FLASH_SECTORS sectors (rule R47). -/
def Params.flashBytes (p : Params) : Nat := p.flashSectors * Config.sectorBytes

/-- Bytes of an erase block: BLOCK_SECTORS sectors (rule R61). -/
def Params.blockBytes (p : Params) : Nat := p.blockSectors * Config.sectorBytes

/-- The bits of REQ that exist: the REQ_W low ones. -/
def Params.reqMask (p : Params) : Word := BitVec.ofNat 32 (2 ^ p.reqW - 1)

namespace Config

/-! ### Open parameters and free values: constants without a body -/

/-- PROTECT_DATA is OPEN in the spec (92_eei_decisions.md D15): the default parameter set carries this constant. -/
opaque protectData : List Byte

/-- ENGINE_BASE is OPEN in the spec (92_eei_decisions.md D43): the platform address of register offset 0. -/
opaque engineBase : Word

/-- A byte the spec leaves unspecified; the argument is the count of free values taken before it. -/
opaque freeByte : Nat → Byte

/-- A bit the spec leaves unspecified (the other bits of the Flash status byte, rule R102). -/
opaque freeBit : Nat → Bool

/-! ### The default build -/

/-- The command bytes (rule R100). -/
def commands : Commands where
  wren    := 0x06
  rdsr    := 0x05
  pp      := 0x02
  se      := 0x20
  be      := 0xD8
  unlock  := 0x98
  protect := 0x42
  read    := 0x03
  fwren   := 0x06
  fwrite  := 0x02
  fread   := 0x03
  flashAddrBytes := 3
  fram1AddrBytes := 2
  fram2AddrBytes := 2

/-- A task whose class takes its address from the context. -/
def ctxTask (name : TaskName) (cls : OpClass) (devs : List Dev) : TaskCfg := ⟨name, cls, devs, 0, 0⟩

/-- An unassigned row. -/
def freeTask : TaskCfg := ctxTask .other .unassigned []

/-- TASKCFG (rule R93): rows 0..22; the last nine are unassigned. -/
def defaultTasks : Vector TaskCfg 32 :=
  #v[ctxTask .capTrip .capture [.flash], ctxTask .capAlarm .capture [.flash], ctxTask .capExt .capture [.flash],
     ⟨.eidWrite, .rrWrite, [.fram1], 0x0000, 2⟩, ⟨.eidRead, .rrRead, [.fram1], 0x0000, 2⟩,
     ⟨.peakWrite, .rrWrite, [.fram1], 0x0020, 16⟩, ⟨.peakRead, .rrRead, [.fram1], 0x0020, 16⟩,
     ctxTask .dlogErase .eraseSector [.flash], ctxTask .dlogWrite .pageWrite [.flash],
     ⟨.tscaleWrite, .rrWrite, [.fram1], 0x0080, 1⟩, ⟨.tscaleRead, .rrRead, [.fram1], 0x0080, 1⟩,
     ctxTask .calUnlock .calUnlock [.flash],
     ⟨.calAfeWrite, .calWrite, [.flash], 0x0000, 32⟩, ⟨.calAdcWrite, .calWrite, [.flash], 0x0010, 32⟩,
     ⟨.calInjWrite, .calWrite, [.flash], 0x0020, 16⟩,
     ⟨.calAfeRead, .rrRead, [.flash], 0x0000, 32⟩, ⟨.calAdcRead, .rrRead, [.flash], 0x0010, 32⟩,
     ⟨.calInjRead, .rrRead, [.flash], 0x0020, 16⟩,
     ctxTask .flashRead .read [.flash], ctxTask .framRead .read [.fram1, .fram2],
     ctxTask .framWrite .framWrite [.fram1, .fram2],
     ctxTask .sectorErase .eraseSector [.flash], ctxTask .blockErase .eraseBlock [.flash],
     freeTask, freeTask, freeTask, freeTask, freeTask, freeTask, freeTask, freeTask, freeTask]

/-- REGION_MAP (rule R66). -/
def defaultRegions : List Region :=
  [⟨.cal, 0x000, 0x00F⟩, ⟨.dlog, 0x010, 0x0FF⟩, ⟨.poolTrip, 0x100, 0x1FF⟩,
   ⟨.poolAlarm, 0x200, 0x2FF⟩, ⟨.poolExt, 0x300, 0x3FF⟩]

/-- The parameters at their defaults (rule R9). -/
def defaults : Params where
  reqW          := 32
  tw            := 16
  tasks         := defaultTasks
  regions       := defaultRegions
  cmds          := commands
  flashSectors  := 4096
  blockSectors  := 16
  framBytes1    := 32768
  framBytes2    := 32768
  flashWidth    := .wordWide
  fram1Width    := .byteWide
  fram2Width    := .byteWide
  setWords      := 18
  ringN         := 4096
  lMax          := 62
  busyBit       := 0
  rrOffFram     := 0x4000
  rrOffFlash    := 0x0080
  busyPollLimit := none
  progMode      := .and
  protReset     := false
  protectData   := protectData

end Config
end Sys2Proof
end

