-- ==== Sys2Proof/Syntax.lean ====
section
/-! DEFINITION. The instructions, one constructor per row of spec/opcode_table.json: the eleven device frames of
30_encoding.md rule R100 with their operands, and the thirty-two request bits of rules R90 and R93, whose operands are
the fixed arguments of TASKCFG and the fields of the task's context record (rule R95). Also the two encoded forms:
the request word and the frame on the transport (rule R99). -/

namespace Sys2Proof

/-- The two FRAM devices, as the operand of an FRAM frame (its select line). -/
inductive FramSel where
  | fram1
  | fram2
  deriving DecidableEq, Repr

/-- The device that an FRAM select line addresses. -/
def FramSel.dev : FramSel → Dev
  | .fram1 => .fram1
  | .fram2 => .fram2

/-- The operations of the hardware. -/
inductive Instr where
  /-- FL_WREN: write enable (rule R121). -/
  | flWren
  /-- FL_RDSR: read status (rule R122). -/
  | flRdsr
  /-- FL_PP: page program: `words` at the page `p` (rule R123). -/
  | flPp (p : Packed) (words : List Half)
  /-- FL_SE: erase of the sector that holds `p` (rule R124). -/
  | flSe (p : Packed)
  /-- FL_BE: erase of the block that holds `p` (rule R125). -/
  | flBe (p : Packed)
  /-- FL_ULBPR: global unlock of block protection (rule R126). -/
  | flUlbpr
  /-- FL_PROTECT: write block protection of the calibration region; `data` are the frame's data bytes (rule R127). -/
  | flProtect (data : List Byte)
  /-- FL_READ: read of `n` words from byte address `a` (the engine sends `a = P · 256`, rule R97; rule R72 gives every byte address) (rule R128). -/
  | flRead (a : FlashAddr) (n : Nat)
  /-- FR_WREN: write enable of FRAM `d` (rule R131). -/
  | frWren (d : FramSel)
  /-- FR_WRITE: write of `bytes` at `a` (rule R132). -/
  | frWrite (d : FramSel) (a : FramAddr) (bytes : List Byte)
  /-- FR_READ: read of `n` bytes at `a` (rule R133). -/
  | frRead (d : FramSel) (a : FramAddr) (n : Nat)
  /-- REQ0_CAP_TRIP: request bit 0, class CAPTURE (rule R190). -/
  | req0CapTrip
  /-- REQ1_CAP_ALARM: request bit 1, class CAPTURE (rule R190). -/
  | req1CapAlarm
  /-- REQ2_CAP_EXT: request bit 2, class CAPTURE (rule R190). -/
  | req2CapExt
  /-- REQ3_EID_WRITE: request bit 3, class RR_WRITE (rule R172). -/
  | req3EidWrite
  /-- REQ4_EID_READ: request bit 4, class RR_READ (rule R174). -/
  | req4EidRead
  /-- REQ5_PEAK_WRITE: request bit 5, class RR_WRITE (rule R172). -/
  | req5PeakWrite
  /-- REQ6_PEAK_READ: request bit 6, class RR_READ (rule R174). -/
  | req6PeakRead
  /-- REQ7_DLOG_ERASE: request bit 7, class ERASE_SECTOR (rule R232). -/
  | req7DlogErase
  /-- REQ8_DLOG_WRITE: request bit 8, class PAGE_WRITE (rule R231). -/
  | req8DlogWrite
  /-- REQ9_TSCALE_WRITE: request bit 9, class RR_WRITE (rule R172). -/
  | req9TscaleWrite
  /-- REQ10_TSCALE_READ: request bit 10, class RR_READ (rule R174). -/
  | req10TscaleRead
  /-- REQ11_CAL_UNLOCK: request bit 11, class CAL_UNLOCK (rule R181). -/
  | req11CalUnlock
  /-- REQ12_CAL_AFE_WRITE: request bit 12, class CAL_WRITE (rule R178). -/
  | req12CalAfeWrite
  /-- REQ13_CAL_ADC_WRITE: request bit 13, class CAL_WRITE (rule R178). -/
  | req13CalAdcWrite
  /-- REQ14_CAL_INJ_WRITE: request bit 14, class CAL_WRITE (rule R178). -/
  | req14CalInjWrite
  /-- REQ15_CAL_AFE_READ: request bit 15, class RR_READ (rule R174). -/
  | req15CalAfeRead
  /-- REQ16_CAL_ADC_READ: request bit 16, class RR_READ (rule R174). -/
  | req16CalAdcRead
  /-- REQ17_CAL_INJ_READ: request bit 17, class RR_READ (rule R174). -/
  | req17CalInjRead
  /-- REQ18_FLASH_READ: request bit 18, class READ (rule R233). -/
  | req18FlashRead
  /-- REQ19_FRAM_READ: request bit 19, class READ (rule R233). -/
  | req19FramRead
  /-- REQ20_FRAM_WRITE: request bit 20, class FRAM_WRITE (rule R234). -/
  | req20FramWrite
  /-- REQ21_SECTOR_ERASE: request bit 21, class ERASE_SECTOR (rule R232). -/
  | req21SectorErase
  /-- REQ22_BLOCK_ERASE: request bit 22, class ERASE_BLOCK (rule R232). -/
  | req22BlockErase
  /-- REQ23_UNASSIGNED: request bit 23, class NONE (rule R221). -/
  | req23Unassigned
  /-- REQ24_UNASSIGNED: request bit 24, class NONE (rule R221). -/
  | req24Unassigned
  /-- REQ25_UNASSIGNED: request bit 25, class NONE (rule R221). -/
  | req25Unassigned
  /-- REQ26_UNASSIGNED: request bit 26, class NONE (rule R221). -/
  | req26Unassigned
  /-- REQ27_UNASSIGNED: request bit 27, class NONE (rule R221). -/
  | req27Unassigned
  /-- REQ28_UNASSIGNED: request bit 28, class NONE (rule R221). -/
  | req28Unassigned
  /-- REQ29_UNASSIGNED: request bit 29, class NONE (rule R221). -/
  | req29Unassigned
  /-- REQ30_UNASSIGNED: request bit 30, class NONE (rule R221). -/
  | req30Unassigned
  /-- REQ31_UNASSIGNED: request bit 31, class NONE (rule R221). -/
  | req31Unassigned
  deriving DecidableEq, Repr

/-- A frame on the transport (rule R99): the device whose select line is asserted, the bytes the engine shifts out
(opcode, address bytes, data), and the number of data bytes it shifts in before the select line is deasserted. -/
structure Frame where
  dev : Dev
  out : List Byte
  nIn : Nat
  deriving DecidableEq, Repr

/-- An encoded operation: a request word (rule R90) or a device frame (rule R99). -/
inductive Code where
  | request (w : Word)
  | frame (f : Frame)
  deriving DecidableEq, Repr

end Sys2Proof
end

