-- ==== Sys2Proof/WellFormed.lean ====
section
/-! DEFINITION. When an instruction is well formed (the lengths of 30_encoding.md rule R100), and when a set of
build-time parameters meets the constraints of 00_scope.md rule R9 and 30_encoding.md rule R94. Each check has a
name, so that a refusal says which one failed. -/

namespace Sys2Proof

/-- Why an instruction is ill formed. -/
inductive IllFormed where
  /-- FL_PP carries 1..128 words (rule R123). -/
  | programWords
  /-- FL_READ reads 1..128 words (rule R128). -/
  | flashReadWords
  /-- FR_WRITE carries 1..256 bytes (rule R132). -/
  | framWriteBytes
  /-- FR_READ reads 1..256 bytes (rule R133). -/
  | framReadBytes
  deriving DecidableEq, Repr

/-- The first check an instruction fails, or `none`. A request bit has no operand field to check. -/
def Instr.illFormed : Instr → Option IllFormed
  | .flPp _ words     => if 1 ≤ words.length ∧ words.length ≤ Config.pageWords then none else some .programWords
  | .flRead _ n       => if 1 ≤ n ∧ n ≤ Config.pageWords then none else some .flashReadWords
  | .frWrite _ _ data => if 1 ≤ data.length ∧ data.length ≤ Config.framFrameBytes then none else some .framWriteBytes
  | .frRead _ _ n     => if 1 ≤ n ∧ n ≤ Config.framFrameBytes then none else some .framReadBytes
  | _                 => none

/-- An instruction that passes every check. -/
abbrev Instr.WellFormed (i : Instr) : Prop := i.illFormed = none

/-- Why a set of parameters is refused. -/
inductive ParamFault where
  /-- 1 ≤ REQ_W ≤ 32, the bits the register map has for a request word (rules R22, R30), and every assigned row of TASKCFG
  has a request bit (rule R90). -/
  | requestWidth
  /-- TW = 16: the words of BUF and of a sample-set have 16 bits (rules R44, R45), and PAGE_BYTES = 2·PAGE_WORDS (rule
  R9). -/
  | transportWord
  /-- FLASH_SECTORS = 2^12: every number of the sector field exists (rules R9, R47). -/
  | flashSize
  /-- FLASH_ADDR_BYTES is 3, for a byte address of 24 bits (rules R10, R97), and FRAM_ADDR_BYTES is 1, 2 or 3 (rule R9: "1–3
  address bytes"). -/
  | addressBytes
  /-- 1 ≤ S_W and 7·S_W ≤ 128 (rule R9). -/
  | setWords
  /-- RING_N is a power of two, at least 8 (rule R9), and at most 2^32: RSTART is a field of a 32-bit word (DEDUCED, log
  entry 4). -/
  | ringSize
  /-- RR_OFF_FLASH is a non-zero multiple of 16 (rule R9). -/
  | flashOffset
  /-- A busy-poll limit, where there is one, is at least 1 (rule R154). That one above 0xFFFF is a legal build, whose limit
  no task reaches, is the model's choice (log entry 22). -/
  | pollLimit
  /-- An FRAM has at least one byte, and its FRAM_ADDR_BYTES reach all of it (rules R62, R103; DEDUCED, log entry 4). -/
  | framSize
  /-- Erase blocks of BLOCK_SECTORS sectors tile the Flash array (DEDUCED from rule R61, log entry 4). -/
  | blockSize
  /-- 1 ≤ L_MAX ≤ 62: VAL holds 62 words (rule R43), and a record fits one frame (rule R172). -/
  | payloadLimit
  /-- The commands of one device differ, so that an opcode byte fixes the frame's shape (DEDUCED from rule R101, log
  entry 4). -/
  | commandBytes
  /-- The tasks of class CAPTURE are CAP_TRIP, CAP_ALARM and CAP_EXT, one of each, in this order (rules R94 (c1) and (c4),
  R212). -/
  | captureTasks
  /-- The captures and EID_WRITE come before DLOG_ERASE and DLOG_WRITE (rule R94 (c2)). -/
  | tripPath
  /-- DLOG_ERASE comes before DLOG_WRITE, and CAL_UNLOCK before every CAL_WRITE (rule R94 (c3)). -/
  | taskOrder
  /-- The devices of a row fit its class (rules R190, R230). -/
  | deviceSets
  /-- A record's payload has 1..L_MAX words and its record has one device, of its class's kind, with an address of 16 bits in
  the Flash (rules R94 (c5), R96, R104). -/
  | recordShape
  /-- A calibration record and its secondary lie in the CAL region, in different sectors (rule R94 (c5)). -/
  | calibrationPlace
  deriving DecidableEq, Repr

/-- Whether a sector lies in the CAL region of the map (rules R66, R75). -/
def Params.isCal (p : Params) (sector : Nat) : Bool :=
  p.regions.any fun r => r.kind == .cal && decide (r.first ≤ sector) && decide (sector ≤ r.last)

/-- The tasks of a class, in index order. -/
def Params.tasksOf (p : Params) (cls : OpClass) : List Task :=
  (List.finRange 32).filter fun k => (p.tasks.get k).cls == cls

/-- The tasks of a name, in index order. -/
def Params.tasksNamed (p : Params) (name : TaskName) : List Task :=
  (List.finRange 32).filter fun k => (p.tasks.get k).name == name

/-- Every task of `as` has a lower index than every task of `bs`. -/
def allBefore (as bs : List Task) : Bool := as.all fun a => bs.all fun b => decide (a < b)

/-- Every row of TASKCFG with a class has a request bit. -/
def Params.tasksFit (p : Params) : Bool :=
  (List.finRange 32).all fun k => (p.tasks.get k).cls == .unassigned || decide (k.val < p.reqW)

/-- The captures are one CAP_TRIP, one CAP_ALARM and one CAP_EXT, in this order of index. -/
def Params.capturesNamed (p : Params) : Bool :=
  let trip := p.tasksNamed .capTrip
  let alarm := p.tasksNamed .capAlarm
  let ext := p.tasksNamed .capExt
  [trip, alarm, ext].all (fun l => l.length == 1) && p.tasksOf .capture == trip ++ alarm ++ ext

/-- The counts of address bytes (rule R9: "1–3 address bytes"); the Flash's carry its whole byte address. -/
def Commands.addressed (c : Commands) : Bool :=
  c.flashAddrBytes == 3 && [c.fram1AddrBytes, c.fram2AddrBytes].all fun n => decide (1 ≤ n) && decide (n ≤ 3)

/-- The size of an FRAM whose frames have `n` address bytes. -/
def framReached (n size : Nat) : Bool := decide (1 ≤ size) && decide (size ≤ 256 ^ n)

/-- The command bytes of one device differ from each other. -/
def Commands.distinct (c : Commands) : Bool :=
  decide ([c.wren, c.rdsr, c.pp, c.se, c.be, c.unlock, c.protect, c.read].Nodup) &&
    decide ([c.fwren, c.fwrite, c.fread].Nodup)

/-- The device set of a row that is no record (rules R93, R190, R230). -/
def TaskCfg.devicesOk (c : TaskCfg) : Bool :=
  match c.cls with
  | .capture | .calUnlock | .pageWrite | .eraseSector | .eraseBlock => c.devs == [.flash]
  | .framWrite => c.devs.all (· != .flash)
  | .rrWrite | .rrRead | .calWrite | .read | .unassigned => true

/-- A row of a record class: a payload of 1..L_MAX words, one device, of the class's kind, and a packed address in the
Flash. -/
def TaskCfg.recordOk (lMax : Nat) (c : TaskCfg) : Bool :=
  let sized := decide (1 ≤ c.len) && decide (c.len ≤ lMax) && (c.devs != [.flash] || decide (c.addr.toNat < 2 ^ 16))
  match c.cls with
  | .rrWrite => sized && (c.devs == [.fram1] || c.devs == [.fram2])
  | .rrRead => sized && c.devs.length == 1
  | .calWrite => sized && c.devs == [.flash]
  | .capture | .calUnlock | .pageWrite | .eraseSector | .eraseBlock | .read | .framWrite | .unassigned => true

/-- Whether both copies of a calibration record lie in the CAL region, in different sectors (rule R94 (c5)). -/
def Params.calPlaced (p : Params) (k : Task) : Bool :=
  let a := (p.tasks.get k).packed
  let a2 := a + p.rrOffFlash
  p.isCal (a.toNat / 16) && p.isCal (a2.toNat / 16) && decide (a.toNat / 16 ≠ a2.toNat / 16)

/-- The constraints on a set of parameters, each with its name. -/
def Params.checks (p : Params) : List (ParamFault × Bool) :=
  [(.requestWidth, decide (1 ≤ p.reqW) && decide (p.reqW ≤ Config.requestBits) && p.tasksFit),
   (.transportWord, p.tw == 16),
   (.flashSize, p.flashSectors == Config.sectorNumbers),
   (.addressBytes, p.cmds.addressed),
   (.setWords, decide (1 ≤ p.setWords) && decide (Config.setsPerPage * p.setWords ≤ Config.pageWords)),
   (.ringSize, decide (8 ≤ p.ringN) && 2 ^ 32 % p.ringN == 0),
   (.flashOffset, p.rrOffFlash != 0 && p.rrOffFlash.toNat % 16 == 0),
   (.pollLimit, p.busyPollLimit != some 0),
   (.framSize, framReached p.cmds.fram1AddrBytes p.framBytes1 && framReached p.cmds.fram2AddrBytes p.framBytes2),
   (.blockSize, p.flashSectors % p.blockSectors == 0),
   (.payloadLimit, decide (1 ≤ p.lMax) && decide (p.lMax ≤ Config.valWords)),
   (.commandBytes, p.cmds.distinct),
   (.captureTasks, p.capturesNamed),
   (.tripPath, allBefore (p.tasksOf .capture ++ p.tasksNamed .eidWrite) (p.tasksNamed .dlogErase ++ p.tasksNamed .dlogWrite)),
   (.taskOrder, allBefore (p.tasksNamed .dlogErase) (p.tasksNamed .dlogWrite) &&
     allBefore (p.tasksOf .calUnlock) (p.tasksOf .calWrite)),
   (.deviceSets, (List.finRange 32).all fun k => (p.tasks.get k).devicesOk),
   (.recordShape, (List.finRange 32).all fun k => (p.tasks.get k).recordOk p.lMax),
   (.calibrationPlace, (p.tasksOf .calWrite).all p.calPlaced)]

/-- The first constraint a set of parameters fails, or `none`. -/
def Params.fault (p : Params) : Option ParamFault := (p.checks.find? fun c => !c.2).map (·.1)

/-- A set of parameters that meets every constraint. -/
abbrev Params.Ok (p : Params) : Prop := p.fault = none

end Sys2Proof
end

