-- ==== Sys2Proof/Decode.lean ====
section
/-! DEFINITION. The decoder, total on any request word and any frame and rejecting by name, and after it the encoder,
both written from 30_encoding.md rules R90-R103, whose command bytes and counts of address bytes are an argument; the
byte-order helpers they share (20_memory.md rule R68); and the host's entry `decodeTableWord`. -/

namespace Sys2Proof

/-! ### Byte order (rule R68) -/

/-- A transport word as its two bytes, high byte first. -/
def halfBytes (h : Half) : List Byte := [h.extractLsb' 8 8, h.extractLsb' 0 8]

/-- The transport word of two bytes, high byte first. -/
def halfOf (hi lo : Byte) : Half := hi ++ lo

/-- The bytes of a list of transport words. -/
def halvesBytes (hs : List Half) : List Byte := hs.flatMap halfBytes

/-- The transport words of a byte stream; a last odd byte is left out. -/
def halvesOf : List Byte → List Half
  | hi :: lo :: rest => halfOf hi lo :: halvesOf rest
  | _ => []

/-- A 32-bit word as its two transport words, high half first. -/
def wordHalves (w : Word) : List Half := [w.extractLsb' 16 16, w.extractLsb' 0 16]

/-- The 32-bit words of a list of transport words; a last odd word is left out. -/
def wordsOf : List Half → List Word
  | hi :: lo :: rest => (hi ++ lo : Word) :: wordsOf rest
  | _ => []

/-! ### Addresses in frames (rules R61, R97, R103) -/

/-- The byte address `BA(P) = P · 256` of a packed address (rule R61). -/
def byteAddrOf (p : Packed) : FlashAddr := p ++ (0 : Byte)

/-- An address as `n` address bytes, most significant first (rules R97, R99, R103). -/
def addrBytes (n a : Nat) : List Byte :=
  match n with
  | 0 => []
  | m + 1 => BitVec.ofNat 8 (a / 256 ^ m) :: addrBytes m a

/-- The address that address bytes form. -/
def addrOf : List Byte → Nat
  | [] => 0
  | b :: rest => b.toNat * 256 ^ rest.length + addrOf rest

/-- The address and the bytes after it, of the bytes after an opcode that `n` address bytes follow (rule R99). -/
def addressPhase (n : Nat) (rest : List Byte) : Option (Nat × List Byte) :=
  if n ≤ rest.length then some (addrOf (rest.take n), rest.drop n) else none

/-! ### Request words (rules R90, R91) -/

/-- The set bit of smallest index: "bit index = priority (lower index = higher priority)". -/
def lowestBit (w : Word) : Option Task := (List.finRange 32).find? fun k => w.getLsbD k.val

/-- The instruction of each request bit, in index order (rule R93). -/
def requestInstrs : Vector Instr 32 :=
  #v[.req0CapTrip, .req1CapAlarm, .req2CapExt, .req3EidWrite,
     .req4EidRead, .req5PeakWrite, .req6PeakRead, .req7DlogErase,
     .req8DlogWrite, .req9TscaleWrite, .req10TscaleRead, .req11CalUnlock,
     .req12CalAfeWrite, .req13CalAdcWrite, .req14CalInjWrite, .req15CalAfeRead,
     .req16CalAdcRead, .req17CalInjRead, .req18FlashRead, .req19FramRead,
     .req20FramWrite, .req21SectorErase, .req22BlockErase, .req23Unassigned,
     .req24Unassigned, .req25Unassigned, .req26Unassigned, .req27Unassigned,
     .req28Unassigned, .req29Unassigned, .req30Unassigned, .req31Unassigned]

/-- The request bit of an instruction; `none` for a device frame. -/
def Instr.task : Instr → Option Task
  | .req0CapTrip => some 0
  | .req1CapAlarm => some 1
  | .req2CapExt => some 2
  | .req3EidWrite => some 3
  | .req4EidRead => some 4
  | .req5PeakWrite => some 5
  | .req6PeakRead => some 6
  | .req7DlogErase => some 7
  | .req8DlogWrite => some 8
  | .req9TscaleWrite => some 9
  | .req10TscaleRead => some 10
  | .req11CalUnlock => some 11
  | .req12CalAfeWrite => some 12
  | .req13CalAdcWrite => some 13
  | .req14CalInjWrite => some 14
  | .req15CalAfeRead => some 15
  | .req16CalAdcRead => some 16
  | .req17CalInjRead => some 17
  | .req18FlashRead => some 18
  | .req19FramRead => some 19
  | .req20FramWrite => some 20
  | .req21SectorErase => some 21
  | .req22BlockErase => some 22
  | .req23Unassigned => some 23
  | .req24Unassigned => some 24
  | .req25Unassigned => some 25
  | .req26Unassigned => some 26
  | .req27Unassigned => some 27
  | .req28Unassigned => some 28
  | .req29Unassigned => some 29
  | .req30Unassigned => some 30
  | .req31Unassigned => some 31
  | _ => none

/-! ### The decoder -/

/-- Why a word or a frame is no instruction. -/
inductive DecodeError where
  /-- The request word has no bit set. -/
  | noRequest
  /-- A frame without an opcode byte. -/
  | emptyFrame
  /-- An opcode byte outside rule R100 for the selected device (rule R129). -/
  | unknownOpcode
  /-- Wrong address bytes, data direction or data length for the opcode (rules R100, R129). -/
  | malformedFrame
  deriving DecidableEq, Repr

/-- `i` where the frame's shape is that of its opcode. -/
def shaped (ok : Bool) (i : Instr) : Except DecodeError Instr := if ok then .ok i else .error .malformedFrame

/-- Data bytes that make 1..128 whole transport words. -/
def evenData (n : Nat) : Bool := n % 2 == 0 && decide (2 ≤ n) && decide (n ≤ 256)

/-- Whether a 24-bit byte address is the start of a page, as the engine sends it (rule R97). -/
def pageStart (a : Nat) : Bool := a % 256 == 0 && decide (a < 2 ^ 24)

/-- The packed address of a page's first byte (rule R61). -/
def packedOf (a : Nat) : Packed := BitVec.ofNat 16 (a / 256)

/-- The frame of a page program with `n` address bytes, from the bytes after its opcode (rules R97, R123). -/
def decodePp (n : Nat) (rest : List Byte) (nIn : Nat) : Except DecodeError Instr :=
  match addressPhase n rest with
  | some (a, data) => shaped (pageStart a && nIn == 0 && evenData data.length) (.flPp (packedOf a) (halvesOf data))
  | none => .error .malformedFrame

/-- The frame of an erase, from the bytes after its opcode (rules R97, R124, R125). -/
def decodeErase (make : Packed → Instr) (n : Nat) (rest : List Byte) (nIn : Nat) : Except DecodeError Instr :=
  match addressPhase n rest with
  | some (a, data) => shaped (pageStart a && data.isEmpty && nIn == 0) (make (packedOf a))
  | none => .error .malformedFrame

/-- The frame of a Flash read, from the bytes after its opcode (rules R72, R128). -/
def decodeFlashRead (n : Nat) (rest : List Byte) (nIn : Nat) : Except DecodeError Instr :=
  match addressPhase n rest with
  | some (a, data) =>
    shaped (decide (a < 2 ^ 24) && data.isEmpty && evenData nIn) (.flRead (BitVec.ofNat 24 a) (nIn / 2))
  | none => .error .malformedFrame

/-- A frame to the Flash (rule R100). -/
def decodeFlash (c : Commands) (op : Byte) (rest : List Byte) (nIn : Nat) : Except DecodeError Instr :=
  if op = c.wren then shaped (rest.isEmpty && nIn == 0) .flWren
  else if op = c.rdsr then shaped (rest.isEmpty && nIn == 1) .flRdsr
  else if op = c.pp then decodePp c.flashAddrBytes rest nIn
  else if op = c.se then decodeErase .flSe c.flashAddrBytes rest nIn
  else if op = c.be then decodeErase .flBe c.flashAddrBytes rest nIn
  else if op = c.unlock then shaped (rest.isEmpty && nIn == 0) .flUlbpr
  else if op = c.protect then shaped (nIn == 0) (.flProtect rest)
  else if op = c.read then decodeFlashRead c.flashAddrBytes rest nIn
  else .error .unknownOpcode

/-- A frame to an FRAM (rules R100, R103). -/
def decodeFram (c : Commands) (d : FramSel) (op : Byte) (rest : List Byte) (nIn : Nat) : Except DecodeError Instr :=
  if op = c.fwren then shaped (rest.isEmpty && nIn == 0) (.frWren d)
  else if op = c.fwrite then
    match addressPhase (c.addrBytesOf d.dev) rest with
    | some (a, data) =>
      shaped (decide (a < 2 ^ 24) && nIn == 0 && decide (1 ≤ data.length) && decide (data.length ≤ 256))
        (.frWrite d (BitVec.ofNat 24 a) data)
    | none => .error .malformedFrame
  else if op = c.fread then
    match addressPhase (c.addrBytesOf d.dev) rest with
    | some (a, data) =>
      shaped (decide (a < 2 ^ 24) && data.isEmpty && decide (1 ≤ nIn) && decide (nIn ≤ 256))
        (.frRead d (BitVec.ofNat 24 a) nIn)
    | none => .error .malformedFrame
  else .error .unknownOpcode

/-- The device's reading of a frame: the opcode fixes the shape, the deselect ends the data (rule R101). -/
def decodeFrame (c : Commands) (f : Frame) : Except DecodeError Instr :=
  match f.out with
  | [] => .error .emptyFrame
  | op :: rest =>
    match f.dev with
    | .flash => decodeFlash c op rest f.nIn
    | .fram1 => decodeFram c .fram1 op rest f.nIn
    | .fram2 => decodeFram c .fram2 op rest f.nIn

/-- The decoder: a request word stands for its set bit of highest priority (rules R90, R213). -/
def decode (c : Commands) : Code → Except DecodeError Instr
  | .request w =>
    match lowestBit w with
    | some k => .ok (requestInstrs.get k)
    | none => .error .noRequest
  | .frame f => decodeFrame c f

/-! ### The encoder -/

/-- The request word with bit `k` alone (`match = 1 << k`, rule R90). -/
def requestWord (k : Task) : Word := 1 <<< k.val

/-- The frame of a device operation (rules R99, R100); a request bit has none and gives an empty frame. -/
def encodeFrame (c : Commands) : Instr → Frame
  | .flWren         => ⟨.flash, [c.wren], 0⟩
  | .flRdsr         => ⟨.flash, [c.rdsr], 1⟩
  | .flPp p words   => ⟨.flash, c.pp :: (addrBytes c.flashAddrBytes (byteAddrOf p).toNat ++ halvesBytes words), 0⟩
  | .flSe p         => ⟨.flash, c.se :: addrBytes c.flashAddrBytes (byteAddrOf p).toNat, 0⟩
  | .flBe p         => ⟨.flash, c.be :: addrBytes c.flashAddrBytes (byteAddrOf p).toNat, 0⟩
  | .flUlbpr        => ⟨.flash, [c.unlock], 0⟩
  | .flProtect data => ⟨.flash, c.protect :: data, 0⟩
  | .flRead a n     => ⟨.flash, c.read :: addrBytes c.flashAddrBytes a.toNat, 2 * n⟩
  | .frWren d       => ⟨d.dev, [c.fwren], 0⟩
  | .frWrite d a bs => ⟨d.dev, c.fwrite :: (addrBytes (c.addrBytesOf d.dev) a.toNat ++ bs), 0⟩
  | .frRead d a n   => ⟨d.dev, c.fread :: addrBytes (c.addrBytesOf d.dev) a.toNat, n⟩
  | .req0CapTrip | .req1CapAlarm | .req2CapExt | .req3EidWrite | .req4EidRead | .req5PeakWrite | .req6PeakRead
    | .req7DlogErase | .req8DlogWrite | .req9TscaleWrite | .req10TscaleRead | .req11CalUnlock
    | .req12CalAfeWrite | .req13CalAdcWrite | .req14CalInjWrite | .req15CalAfeRead | .req16CalAdcRead
    | .req17CalInjRead | .req18FlashRead | .req19FramRead | .req20FramWrite | .req21SectorErase
    | .req22BlockErase | .req23Unassigned | .req24Unassigned | .req25Unassigned | .req26Unassigned
    | .req27Unassigned | .req28Unassigned | .req29Unassigned | .req30Unassigned | .req31Unassigned
    => ⟨.flash, [], 0⟩

/-- Whether the address bytes of an instruction's frame carry its address. -/
def Instr.addressFits (c : Commands) : Instr → Bool
  | .flPp p _ | .flSe p | .flBe p => decide ((byteAddrOf p).toNat < 256 ^ c.flashAddrBytes)
  | .flRead a _ => decide (a.toNat < 256 ^ c.flashAddrBytes)
  | .frWrite d a _ | .frRead d a _ => decide (a.toNat < 256 ^ c.addrBytesOf d.dev)
  | _ => true

/-- The encoder. -/
def encode (c : Commands) (i : Instr) : Code :=
  match i.task with
  | some k => .request (requestWord k)
  | none => .frame (encodeFrame c i)

/-! ### The table's words

The table numbers the bits of three spaces alike: the Flash's opcode byte, the FRAM's opcode byte and the request
word. Which space a number belongs to is told on the hardware by the select line or the register, not by its bits.
The rule taken here (log entry 5): a number of one byte that is a Flash opcode is a Flash frame; any other is a
request word. -/

/-- The frame that a Flash opcode byte begins, every operand zero, with the fewest data its shape allows. -/
def zeroFrame (op : Byte) : Option Frame :=
  if op = Config.commands.wren ∨ op = Config.commands.unlock ∨ op = Config.commands.protect then some ⟨.flash, [op], 0⟩
  else if op = Config.commands.rdsr then some ⟨.flash, [op], 1⟩
  else if op = Config.commands.pp then some ⟨.flash, [op, 0, 0, 0, 0, 0], 0⟩
  else if op = Config.commands.se ∨ op = Config.commands.be then some ⟨.flash, [op, 0, 0, 0], 0⟩
  else if op = Config.commands.read then some ⟨.flash, [op, 0, 0, 0], 2⟩
  else none

/-- The encoded form of a table word of `nbits` bits. -/
def codeOfTableWord (nbits w : Nat) : Code :=
  match (if nbits ≤ 8 then zeroFrame (BitVec.ofNat 8 w) else none) with
  | some f => .frame f
  | none => .request (BitVec.ofNat 32 w)

/-- The host's entry: the instruction the decoder reads from a table word. -/
def decodeTableWord (nbits w : Nat) : Option Instr :=
  match decode Config.commands (codeOfTableWord nbits w) with
  | .ok i => some i
  | .error _ => none

end Sys2Proof
end

