-- ==== Sys2Proof/Machine/State.lean ====
section
/-! DEFINITION. The state of the machine as plain data: every register, context field, ring slot and device bit of
10_state.md rules R20-R49, and the model's own fields (the transport's frame in flight and received data, the inputs of
the other agents, the count of free values, the build's parameters). Also the reasons a step can stop, and the reset
state (70_reset_and_hazards.md rule R270). -/

namespace Sys2Proof.Machine

/-! ### Context fields -/

/-- CTX[k].PHASE (rule R31); the reserved value 3 is never written and has no constructor. -/
inductive Phase where
  /-- 0: no request in progress for the task. -/
  | idle
  /-- 1: the task has had a slice and has not ended. -/
  | run
  /-- 2: the task has ended and its ACK bit is not yet set. -/
  | finish
  deriving DecidableEq, Repr

/-- CTX[k].FS, the sub-step inside a device operation (rule R32). -/
inductive SubStep where
  /-- 0: at the op boundary, nothing issued. -/
  | boundary
  /-- 1: write enable issued, command frame next. -/
  | enabled
  /-- 2: command issued, busy poll next. -/
  | issued
  deriving DecidableEq, Repr

/-- CTX[k].STATUS (30_encoding.md rule R106), codes 0..7 in order; `writeProtected` is the code named PROTECTED. Codes
8..15 are never written and have no constructor. -/
inductive Status where
  | none
  | ok
  | defaulted
  | aborted
  | writeProtected
  | invalidParam
  | withdrawn
  | timeout
  deriving DecidableEq, Repr

/-- CTX[k].SRC, the copy that supplied VAL (rule R35). -/
inductive Src where
  | primary
  | secondary
  | default
  | noRead
  deriving DecidableEq, Repr

/-- The device operation a task is inside (42_flash_engine.md section 1 and rule R158), with the number of transport words
its data has where it carries data. -/
inductive DeviceOp where
  /-- FOP(PROG, p, data), the data being `n` words: `PageWrite(p, n, data)` (rule R156). -/
  | prog (p : Packed) (n : Nat)
  /-- FOP(SE, p). -/
  | se (p : Packed)
  /-- FOP(BE, p). -/
  | be (p : Packed)
  /-- FOP(PROTECT). -/
  | protect
  /-- FOP(UNLOCK). -/
  | unlock
  /-- WOP(d, a, bytes), the bytes being those of `n` words. -/
  | fram (d : FramSel) (a : FramAddr) (n : Nat)
  /-- No device operation has begun. -/
  | none
  deriving DecidableEq, Repr

/-- A task context record (rules R30-R44). -/
structure Ctx where
  phase     : Phase
  /-- OPI: the device operation, or record copy, of the class's sequence (rule R32). -/
  opi       : BitVec 4
  fs        : SubStep
  /-- The device operation begun last, as its class fixed it at the op boundary: "the class that starts it fixes kind and P
  at the op boundary" (42_flash_engine.md section 1). The model's own field: no rule names the register. It is read
  only while FS ≠ 0; that the device, the address and the count of a WOP and the count N of a PAGE_WRITE are kept
  with it is the model's choice (log entry 18). -/
  op        : DeviceOp
  status    : Status
  /-- ABORT (rule R34). -/
  abort     : Bool
  src       : Src
  /-- NEED_ERASE (rule R36). -/
  needErase : Bool
  /-- PEND: sample-sets of a page program issued and not confirmed (rule R36). -/
  pend      : BitVec 3
  /-- POLLS: consecutive busy polls, saturating (rule R37). -/
  polls     : BitVec 16
  /-- ADDR (rule R38). -/
  addr      : BitVec 16
  /-- DEV, the device selector (rule R39). -/
  dev       : BitVec 2
  /-- N, the word count of a generic task (rule R40). -/
  n         : BitVec 8
  /-- RSTART, the ring slot of a capture's first sample-set (rule R41); below RING_N. -/
  rstart    : BitVec 32
  /-- COUNT: sample-sets committed (rule R42). -/
  count     : BitVec 12
  /-- NZERO: leading zero-filled sample-sets (rule R42), at most RING_N. -/
  nzero     : BitVec 33
  /-- VAL, the record payload (rule R43). -/
  val       : Vector Word 62
  /-- DFLT, the caller's default (rule R43). -/
  dflt      : Vector Word 62
  /-- BUF, the generic data buffer (rule R44). -/
  buf       : Vector Half 128
  deriving DecidableEq, Repr

/-! ### Ring and devices -/

/-- The bytes of a device array: (address, byte) pairs, addresses strictly rising, none equal to `Config.blankByte`,
which is what an unlisted address reads as. -/
abbrev Memory := List Host.Cell

/-- A sample-set: S_W transport words (rule R45). -/
abbrev Sample := List Half

/-- The ring buffer (rules R45, R46). The slots are (slot, sample-set) pairs in the same canonical form; an unlisted
slot reads as S_W zero words, the model's value for a slot nothing has written (log entry 1). -/
structure Ring where
  slots  : List (Nat × Sample)
  /-- RING_W, the slot the next sample-set goes to; below RING_N. -/
  w      : BitVec 32
  /-- RING_FILLED. -/
  filled : Bool
  deriving DecidableEq, Repr

/-- FLASH.OP, the operation a busy Flash performs (rule R47). -/
inductive FlashOp where
  | program (a : FlashAddr) (bytes : List Byte)
  | eraseSector (sector : BitVec 12)
  /-- The block's number, its sectors taken BLOCK_SECTORS at a time. -/
  | eraseBlock (block : BitVec 12)
  deriving DecidableEq, Repr

/-- The serial Flash device (rule R47). -/
structure Flash where
  array : Memory
  /-- The write-enable latch. -/
  wel   : Bool
  /-- The busy indicator. -/
  busy  : Bool
  op    : Option FlashOp
  /-- Block protection of the calibration region. -/
  bp    : Bool
  deriving DecidableEq, Repr

/-- An FRAM device (rule R48). -/
structure Fram where
  array : Memory
  /-- The write-enable latch. -/
  wel   : Bool
  deriving DecidableEq, Repr

/-! ### Transport -/

/-- What the transport returned from a frame (`rx` of 40_transport.md rule R120). The status byte stands as its eight
bits, bit 0 first, because the engine reads one of them and the others have unspecified values (rule R102). -/
inductive Received where
  | none
  | status (bits : Vector Bool 8)
  | data (bytes : List Byte)
  deriving DecidableEq, Repr

/-- The transport port. It holds no architectural state between frames (rule R49); these are the model's own fields. -/
structure Port where
  /-- A frame on the wire that its device has yet to act on; no step leaves one there. -/
  bus  : Option Frame
  /-- The data of the last frame; a tick leaves none. -/
  rx   : Received
  /-- The frames the last tick put on the wire, in order. -/
  sent : List Frame
  deriving DecidableEq, Repr

/-! ### The other agents (60_exceptions.md rule R261) -/

/-- The width of a host access; only the 32-bit one is defined (rule R22). -/
inductive Width where
  | byte
  | half
  | word
  deriving DecidableEq, Repr

/-- One action of an agent (30_encoding.md rule R108). -/
inductive Action where
  /-- The host writes `v` at register offset `off`: every `W`, `SET`, `CLR`, `ABORT` and `CLRFLT` line is one. -/
  | hostWrite (width : Width) (off : Word) (v : Word)
  /-- The host reads the register at offset `off`. -/
  | hostRead (width : Width) (off : Word)
  /-- `PUSH v`: the front-end pushes a sample-set. -/
  | push (v : Sample)
  /-- `TICK`. `between` lists, for each ring read the tick makes, the pushes that fall right after it (rule R229). -/
  | tick (between : List (List Sample))
  /-- `DONE`: the Flash takes its completion step (rule R79). -/
  | done
  /-- `PWR`: power loss between two steps, then reset (rule R258). -/
  | power
  /-- Power loss inside the frame of a tick, then reset (rules R88, R258). -/
  | powerInFrame
  deriving DecidableEq, Repr

/-- What surrounds the engine: the model's own fields. -/
structure Env where
  /-- The actions of the other agents and the ticks that come next, first one first. -/
  inputs   : List Action
  /-- The pushes still to fall between the ring reads of the tick that is running. -/
  between  : List (List Sample)
  /-- The data of the host's last register read. -/
  hostData : Word
  /-- How many free values have been taken. -/
  free     : Nat
  deriving DecidableEq, Repr

/-! ### The machine -/

/-- The state of the machine. -/
structure State where
  /-- The build-time parameters (rules R9, R50): constants that no step changes. -/
  cfg   : Params
  /-- REQ (rule R23). -/
  req   : Word
  /-- ACK (rule R25). -/
  ack   : Word
  /-- SFLT (rule R26). -/
  sflt  : Word
  /-- LOCK_V (rule R27). -/
  lockV : Bool
  /-- LOCK_K (rule R27). -/
  lockK : Task
  /-- PROT (rule R28). -/
  prot  : Bool
  /-- CTX[0..31] (rule R30). -/
  ctx   : Vector Ctx 32
  ring  : Ring
  flash : Flash
  /-- FRAM[1], on board. -/
  fram1 : Fram
  /-- FRAM[2], extended capture. -/
  fram2 : Fram
  port  : Port
  env   : Env
  deriving DecidableEq, Repr

/-! ### Why a step can stop -/

/-- No step faults: the engine has no exception mechanism, every failure is a status value or a flag
(60_exceptions.md rule R250), and no address of any space is absent (rules R22, R62, R78). -/
inductive Fault
  deriving DecidableEq, Repr

/-- Why a step is refused. -/
inductive Refusal where
  /-- Raised by `exec`'s arm of an instruction that has no meaning yet; safe. -/
  | notModelled (mnemonic : String)
  /-- Raised by a host access that is not 32 bits wide, which rule R22 says "is refused by the model (no meaning
  given)"; safe. -/
  | narrowHostAccess
  /-- Raised by a 32-bit host access whose offset is not a multiple of four (rule R22); safe. -/
  | misalignedHostAccess
  deriving DecidableEq, Repr

/-! ### Reset (rule R270) -/

/-- A context record right after reset. ADDR, DEV, N, RSTART, VAL, DFLT and BUF are unspecified by rules R38-R44; zero is
the model's value for them (DESIGN CHOICE, log entry 1). -/
def Ctx.reset : Ctx where
  phase     := .idle
  opi       := 0
  fs        := .boundary
  op        := .none
  status    := .none
  abort     := false
  src       := .noRead
  needErase := false
  pend      := 0
  polls     := 0
  addr      := 0
  dev       := 0
  n         := 0
  rstart    := 0
  count     := 0
  nzero     := 0
  val       := Vector.replicate 62 0
  dflt      := Vector.replicate 62 0
  buf       := Vector.replicate 128 0

/-- Power-up: every piece of state at its reset value but the device arrays, which are non-volatile (rules R258, R270). -/
def State.powerUp (p : Params) (flash fram1 fram2 : Memory) : State where
  cfg   := p
  req   := 0
  ack   := 0
  sflt  := 0
  lockV := false
  lockK := 0
  prot  := p.protReset
  ctx   := Vector.replicate 32 Ctx.reset
  ring  := ⟨[], 0, false⟩
  flash := ⟨flash, false, false, none, p.protReset⟩
  fram1 := ⟨fram1, false⟩
  fram2 := ⟨fram2, false⟩
  port  := ⟨none, .none, []⟩
  env   := ⟨[], [], 0, 0⟩

/-- The machine right after reset: the default build, with nothing written to any device. -/
def State.reset : State := State.powerUp Config.defaults [] [] []

end Sys2Proof.Machine
end

