-- ==== Sys2Proof/Machine/Checksum.lean ====
section
/-! DEFINITION. The checksum codec (41_checksum.md rules R140-R143): combinational functions without state. -/

namespace Sys2Proof.Machine

/-- `Checksum` (rule R140): the sum modulo 2^32; a carry out of bit 31 is discarded. -/
def checksum (words : List Word) : Word := words.foldl (· + ·) 0

/-- `Complement` (rule R141). -/
def complement (c : Word) : Word := ~~~c

/-- `Encode` (rule R142): the payload, its checksum, the complement. -/
def encodeRecord (payload : List Word) : List Word := payload ++ [checksum payload, complement (checksum payload)]

/-- `Valid` (rule R143) on the L + 2 words read back. -/
def validRecord (r : List Word) (len : Nat) : Bool :=
  checksum (r.take len) == r.getD len 0 && r.getD (len + 1) 0 == complement (r.getD len 0)

end Sys2Proof.Machine
end

