-- ==== Sys2Proof/Machine/Flags.lean ====
section
/-! DEFINITION. Flag and status computations: the codes of the context fields (30_encoding.md rule R106, 10_state.md
rules R31, R32, R35), the register words the host reads (rules R22, R29), the soft-fault summary (rule R26), and the
request and acknowledge words as sets of tasks (45_arbiter.md rules R210, R211). -/

namespace Sys2Proof.Machine

/-! ### Codes -/

/-- The code of PHASE (rule R31). -/
def Phase.code : Phase → BitVec 2
  | .idle => 0
  | .run => 1
  | .finish => 2

/-- The code of FS (rule R32). -/
def SubStep.code : SubStep → BitVec 2
  | .boundary => 0
  | .enabled => 1
  | .issued => 2

/-- The code of STATUS (rule R106). -/
def Status.code : Status → BitVec 4
  | .none => 0
  | .ok => 1
  | .defaulted => 2
  | .aborted => 3
  | .writeProtected => 4
  | .invalidParam => 5
  | .withdrawn => 6
  | .timeout => 7

/-- The code of SRC (rule R35). -/
def Src.code : Src → BitVec 2
  | .primary => 0
  | .secondary => 1
  | .default => 2
  | .noRead => 3

/-! ### Register words (rule R22) -/

/-- CTX[k].CTL: PEND, NEED_ERASE, SRC, ABORT, STATUS, FS, OPI, PHASE from bit 18 down. -/
def Ctx.ctlWord (c : Ctx) : Word :=
  ((((((((0#13 ++ c.pend) ++ BitVec.ofBool c.needErase) ++ c.src.code) ++ BitVec.ofBool c.abort) ++ c.status.code)
    ++ c.fs.code) ++ c.opi) ++ c.phase.code)

/-- CTX[k].ARG: N in bits 31..24, DEV in 17..16, ADDR in 15..0. -/
def Ctx.argWord (c : Ctx) : Word := (((c.n ++ 0#6) ++ c.dev) ++ c.addr)

/-- CTX[k].RST: RSTART, which is below RING_N, in the low log2(RING_N) bits. -/
def Ctx.rstWord (c : Ctx) : Word := c.rstart

/-- CTX[k].PROG: NZERO in bits 28..16, COUNT in 11..0. Of an NZERO above 13 bits, which a ring of more than 4096 slots can
give, the low 13 bits stand there (DESIGN CHOICE, log entry 4). -/
def Ctx.progWord (c : Ctx) : Word := (((0#3 ++ c.nzero.setWidth 13) ++ 0#4) ++ c.count)

/-- CTX[k].POLL. -/
def Ctx.pollWord (c : Ctx) : Word := 0#16 ++ c.polls

/-- SOFT_FAULT: the OR of all SFLT bits (rule R26). -/
def softFault (sflt : Word) : Bool := sflt != 0

/-- ENGSTAT (rule R29). -/
def engstatWord (sflt : Word) (prot lockV : Bool) (lockK : Task) : Word :=
  ((((0#22 ++ BitVec.ofBool (softFault sflt)) ++ BitVec.ofBool prot) ++ BitVec.ofBool lockV) ++ 0#2)
    ++ BitVec.ofNat 5 lockK.val

/-- RINGSTAT (rule R29): RING_FILLED in bit 16, RING_W below it. Of a RING_W above 16 bits, which a ring of more than 65536
slots can give, the low 16 bits stand there (DESIGN CHOICE, log entry 4). -/
def ringstatWord (r : Ring) : Word := (0#15 ++ BitVec.ofBool r.filled) ++ r.w.setWidth 16

/-! ### Words as sets of tasks -/

/-- Bit `k` of a word (rule R12). -/
def bitAt (w : Word) (k : Task) : Bool := w.getLsbD k.val

/-- The word with bit `k` set. -/
def setBit (w : Word) (k : Task) : Word := w ||| requestWord k

/-- The word with bit `k` cleared. -/
def clearBit (w : Word) (k : Task) : Word := w &&& ~~~(requestWord k)

/-- `P`: the tasks pending and not yet acknowledged (rule R210, step 5), as a request word. -/
def pendingWord (req ack : Word) : Word := req &&& ~~~ack

/-- `scan = min P` (rules R210, R213). -/
def State.scan (s : State) : Option Task := lowestBit (pendingWord s.req s.ack)

/-- The handshake release (rule R211): every ACK bit whose REQ bit is 0 is cleared. -/
def releasedAck (req ack : Word) : Word := ack &&& req

end Sys2Proof.Machine
end

