-- ==== Sys2Proof/Machine/Memory.lean ====
section
/-! DEFINITION. The named operations over the device arrays and the ring: a sparse store in one canonical form, and on
it the array reads and writes of 20_memory.md rules R72-R78 and the power-loss rule R88. -/

namespace Sys2Proof.Machine

/-! ### Sparse stores -/

/-- What key `x` holds; a key that is not listed holds `d`. -/
def storeRead {β : Type} (d : β) (m : List (Nat × β)) (x : Nat) : β :=
  match m with
  | [] => d
  | (a, v) :: rest => if x = a then v else storeRead d rest x

/-- A new entry at its place in a rising list. -/
def storeInsert {β : Type} (m : List (Nat × β)) (a : Nat) (v : β) : List (Nat × β) :=
  match m with
  | [] => [(a, v)]
  | (b, w) :: rest => if a < b then (a, v) :: (b, w) :: rest else (b, w) :: storeInsert rest a v

/-- Key `a` set to `v`: writing the value of an unlisted key removes the entry. -/
def storeWrite {β : Type} [DecidableEq β] (d : β) (m : List (Nat × β)) (a : Nat) (v : β) : List (Nat × β) :=
  let kept := m.filter fun p => p.1 != a
  if v = d then kept else storeInsert kept a v

/-- The canonical form: keys strictly rising and below `size`, no entry equal to `d`. -/
def storeWf {β : Type} [DecidableEq β] (d : β) (size : Nat) (m : List (Nat × β)) : Bool :=
  match m with
  | [] => true
  | (a, v) :: rest =>
    decide (a < size) && decide (v ≠ d) && rest.all (fun p => decide (a < p.1)) && storeWf d size rest

/-! ### Device arrays -/

/-- One byte of an array. -/
def Memory.read (m : Memory) (a : Nat) : Byte := storeRead Config.blankByte m a

/-- One byte written. -/
def Memory.write (m : Memory) (a : Nat) (b : Byte) : Memory := storeWrite Config.blankByte m a b

/-- The canonical form of an array of `size` bytes. -/
def Memory.wf (size : Nat) (m : Memory) : Bool := storeWf Config.blankByte size m

/-- `n` bytes from `a`, the address taken modulo the array's size: `MemRead` (rules R72, R76, R78). -/
def Memory.readWrap (size : Nat) (m : Memory) (a n : Nat) : List Byte :=
  (List.range n).map fun i => m.read ((a + i) % size)

/-- `bytes` written from `a`, the address taken modulo the array's size: `MemWrite` of an FRAM (rules R77, R78). -/
def Memory.writeWrap (size : Nat) (m : Memory) (a : Nat) (bytes : List Byte) : Memory :=
  match bytes with
  | [] => m
  | b :: rest => Memory.writeWrap size (m.write (a % size) b) (a + 1) rest

/-- What a program leaves in a byte (rule R73). -/
def programByte (mode : ProgMode) (old new : Byte) : Byte :=
  match mode with
  | .and => old &&& new
  | .overwrite => new

/-- A page program of `bytes` from `a`: `MemWrite` of the Flash (rule R73). -/
def Memory.program (mode : ProgMode) (m : Memory) (a : Nat) (bytes : List Byte) : Memory :=
  match bytes with
  | [] => m
  | b :: rest => Memory.program mode (m.write a (programByte mode (m.read a) b)) (a + 1) rest

/-- `n` bytes from `a` made all-ones (rule R74): an erased byte is an unlisted one. -/
def Memory.erase (m : Memory) (a n : Nat) : Memory := m.filter fun p => !(decide (a ≤ p.1) && decide (p.1 < a + n))

/-- The bytes `Config.freeByte` gives from count `c` on: values the spec leaves unspecified. -/
def freeBytes (c n : Nat) : List Byte := (List.range n).map fun i => Config.freeByte (c + i)

/-- `n` bytes from `a`, modulo the size, left with unspecified values (rule R88). -/
def Memory.scramble (size : Nat) (m : Memory) (a n c : Nat) : Memory := m.writeWrap size a (freeBytes c n)

/-! ### The Flash's operation in progress -/

/-- The completion's effect on the array (rules R73, R74, R79). -/
def FlashOp.apply (p : Params) (op : FlashOp) (m : Memory) : Memory :=
  match op with
  | .program a bytes => m.program p.progMode a.toNat bytes
  | .eraseSector sec => m.erase (sec.toNat * Config.sectorBytes) Config.sectorBytes
  | .eraseBlock blk => m.erase (blk.toNat * p.blockBytes) p.blockBytes

/-- The first byte and the length of an operation's target: its page, sector or block (rule R88). -/
def FlashOp.target (p : Params) (op : FlashOp) : Nat × Nat :=
  match op with
  | .program a _ => (a.toNat / p.pageBytes * p.pageBytes, p.pageBytes)
  | .eraseSector sec => (sec.toNat * Config.sectorBytes, Config.sectorBytes)
  | .eraseBlock blk => (blk.toNat * p.blockBytes, p.blockBytes)

/-! ### Ring slots -/

/-- A sample-set of S_W zero words: what a slot holds that nothing has written (log entry 1), and the zero-fill of
44_waveform_streamer.md rule R192. -/
def zeroSample (words : Nat) : Sample := List.replicate words 0

/-- A sample-set cut or padded with zero words to S_W words (rule R45 gives every sample-set S_W words). -/
def fitSample (words : Nat) (v : Sample) : Sample := (List.range words).map fun i => v.getD i 0

/-- `RingRead(i)` (rule R45). -/
def Ring.read (words : Nat) (r : Ring) (slot : Nat) : Sample := storeRead (zeroSample words) r.slots slot

/-- The front-end's push, one atomic step (rule R46). -/
def Ring.push (size words : Nat) (r : Ring) (v : Sample) : Ring :=
  let w' := BitVec.ofNat 32 ((r.w.toNat + 1) % size)
  { slots  := storeWrite (zeroSample words) r.slots r.w.toNat (fitSample words v)
    w      := w'
    filled := r.filled || w' == 0 }

end Sys2Proof.Machine
end

