-- ==== Sys2Proof/Machine/Operands.lean ====
section
/-! DEFINITION. The operand forms (30_encoding.md rule R95): packed Flash addresses (rules R61, R96), device selectors
(rule R98), record addresses and layouts (rule R104, 43_redundant_record.md rule R170), and the payload and buffer
fields of a context. -/

namespace Sys2Proof.Machine

/-! ### Addresses -/

/-- The sector of a packed address, `P[15:4]` (rule R61). -/
def sectorOf (p : Packed) : BitVec 12 := p.extractLsb' 4 12

/-- The block of a packed address: its sector, BLOCK_SECTORS at a time; `P[15:8]` at the default of 16 (rule R61). -/
def blockOf (p : Params) (a : Packed) : BitVec 12 := BitVec.ofNat 12 ((sectorOf a).toNat / p.blockSectors)

/-- The page field of a packed address (rule R96). -/
def pageField (p : Packed) : BitVec 4 := p.extractLsb' 0 4

/-- The successor of a packed address (rule R96). -/
def nextPage (p : Packed) : Packed := p + 1

/-- An FRAM address reduced modulo the device's size (rules R62, R103). -/
def framAddr (p : Params) (d : Dev) (a : Nat) : FramAddr := BitVec.ofNat 24 (a % p.framBytes d)

/-- The device a selector names; 3 is unsupported (rule R98). -/
def devOfSelector (sel : BitVec 2) : Option Dev :=
  if sel = 0 then some .flash else if sel = 1 then some .fram1 else if sel = 2 then some .fram2 else none

/-- The FRAM operand of a device; `none` for the Flash. -/
def framSel : Dev → Option FramSel
  | .flash => none
  | .fram1 => some .fram1
  | .fram2 => some .fram2

/-! ### The task table (rules R91, R93) -/

/-- The row of task `k`. -/
def State.taskCfg (s : State) (k : Task) : TaskCfg := s.cfg.tasks.get k

/-- The single member of a task's device set; `none` where it has not exactly one. -/
def taskDev (c : TaskCfg) : Option Dev :=
  match c.devs with
  | [d] => some d
  | _ => none

/-- The primary (`second = false`) or secondary copy's address in an FRAM (rule R170). -/
def framCopyAddr (p : Params) (c : TaskCfg) (d : Dev) (second : Bool) : FramAddr :=
  framAddr p d (if second then c.addr.toNat + p.rrOffFram else c.addr.toNat)

/-- The primary or secondary copy's packed address in the Flash (rule R170). -/
def flashCopyAddr (p : Params) (c : TaskCfg) (second : Bool) : Packed :=
  if second then c.packed + p.rrOffFlash else c.packed

/-! ### Payloads and buffers -/

/-- CTX[k].VAL[0..L-1]. -/
def Ctx.payload (c : Ctx) (len : Nat) : List Word := c.val.toList.take len

/-- CTX[k].DFLT[0..L-1]. -/
def Ctx.defaults (c : Ctx) (len : Nat) : List Word := c.dflt.toList.take len

/-- CTX[k].BUF[0..n-1]. -/
def Ctx.bufWords (c : Ctx) (n : Nat) : List Half := c.buf.toList.take n

/-- The context with VAL[0..L-1] set from `ws`, the rest unchanged. -/
def Ctx.withVal (c : Ctx) (len : Nat) (ws : List Word) : Ctx :=
  { c with val := Vector.ofFn fun i => if i.val < len then ws.getD i.val 0 else c.val.get i }

/-- The context with BUF[0..n-1] set from `hs`, the rest unchanged. -/
def Ctx.withBuf (c : Ctx) (n : Nat) (hs : List Half) : Ctx :=
  { c with buf := Vector.ofFn fun i => if i.val < n then hs.getD i.val 0 else c.buf.get i }

/-- The transport words of a record: `words(RecBytes(VAL, L))` (rules R104, R170, R179). -/
def recordHalves (c : Ctx) (len : Nat) : List Half := (encodeRecord (c.payload len)).flatMap wordHalves

/-- The words of a record read back, from its bytes (rules R170, R175). -/
def recordOf (bytes : List Byte) : List Word := wordsOf (halvesOf bytes)

/-- The transport words of a record of payload length `len` (rule R10). -/
def recordWordCount (len : Nat) : Nat := 2 * (len + 2)

/-- A payload length a record class accepts (rules R172, R174, R178). -/
def recordLenOk (p : Params) (len : Nat) : Bool := decide (1 ≤ len) && decide (len ≤ p.lMax)

/-- A word count a generic class accepts (rule R230). -/
def wordCountOk (n : BitVec 8) : Bool := decide (1 ≤ n.toNat) && decide (n.toNat ≤ Config.pageWords)

end Sys2Proof.Machine
end

