-- ==== Sys2Proof/Machine/Ops.lean ====
section
/-! DEFINITION. The named operations over the state: one setter per field, context updates, and the task-ending
primitives of 45_arbiter.md rules R214-R216, R218 and R220. The engine has no exceptions and no return from one
(60_exceptions.md rule R250): `finish`, `retire` and `withdraw` are the only ways it reports an outcome. -/

namespace Sys2Proof.Machine

/-! ### Setters -/

def State.setReq (s : State) (v : Word) : State := { s with req := v }
def State.setAck (s : State) (v : Word) : State := { s with ack := v }
def State.setSflt (s : State) (v : Word) : State := { s with sflt := v }
/-- LOCK <- (1, k) (rules R150, R158). -/
def State.takeLock (s : State) (k : Task) : State := { s with lockV := true, lockK := k }
/-- LOCK_V <- 0; LOCK_K keeps the last holder (rule R27). -/
def State.dropLock (s : State) : State := { s with lockV := false }
def State.setProt (s : State) (b : Bool) : State := { s with prot := b }
def State.setCtx (s : State) (k : Task) (c : Ctx) : State := { s with ctx := s.ctx.set k.val c }
def State.setRing (s : State) (r : Ring) : State := { s with ring := r }
def State.setFlash (s : State) (f : Flash) : State := { s with flash := f }
def State.setFram (s : State) (d : FramSel) (f : Fram) : State :=
  match d with
  | .fram1 => { s with fram1 := f }
  | .fram2 => { s with fram2 := f }
def State.setPort (s : State) (p : Port) : State := { s with port := p }
def State.setEnv (s : State) (e : Env) : State := { s with env := e }

/-! ### Readers -/

/-- CTX[k]. -/
def State.ctxAt (s : State) (k : Task) : Ctx := s.ctx.get k

/-- FRAM[d]. -/
def State.fram (s : State) : FramSel → Fram
  | .fram1 => s.fram1
  | .fram2 => s.fram2

/-- Whether task `k` holds LOCK. -/
def State.holdsLock (s : State) (k : Task) : Bool := s.lockV && s.lockK == k

/-! ### Small updates -/

/-- CTX[k] changed by `f`. -/
def State.modCtx (s : State) (k : Task) (f : Ctx → Ctx) : State := s.setCtx k (f (s.ctxAt k))

/-- CTX[k].FS <- v. -/
def State.setFs (s : State) (k : Task) (v : SubStep) : State := s.modCtx k fun c => { c with fs := v }

/-- What the transport returned. -/
def State.setRx (s : State) (r : Received) : State := s.setPort { s.port with rx := r }

/-- `n` free values taken. -/
def State.useFree (s : State) (n : Nat) : State := s.setEnv { s.env with free := s.env.free + n }

/-! ### Ending a task -/

/-- The fields every end of a task clears. -/
def Ctx.ended (c : Ctx) : Ctx := { c with abort := false, pend := 0, opi := 0, fs := .boundary }

/-- `Finish(st)` of task `k` (rule R214): acknowledged at once as the scan choice, acknowledged later if a task of higher
priority is pending, not acknowledged if the host has withdrawn the request. -/
def finish (k : Task) (st : Status) (s : State) : State :=
  let c : Ctx := { (s.ctxAt k).ended with status := st }
  if s.scan = some k then (s.setCtx k { c with phase := .idle }).setAck (setBit s.ack k)
  else if bitAt s.req k then s.setCtx k { c with phase := .finish }
  else s.setCtx k { c with phase := .idle }

/-- `Retire(k)` (rule R215): a capture ended at its committed length; its request is cleared and never acknowledged. -/
def retire (k : Task) (s : State) : State :=
  let c := s.ctxAt k
  let count := if c.phase = .idle then 0 else c.count
  (s.setCtx k { c.ended with count := count, status := .aborted, phase := .idle }).setReq (clearBit s.req k)

/-- The context a withdrawal leaves (rule R216): a task that had finished keeps its status. -/
def Ctx.withdrawn (c : Ctx) : Ctx :=
  { c.ended with status := if c.phase = .run then .withdrawn else c.status, phase := .idle }

/-- `Withdraw(k)` (rule R216). -/
def withdraw (k : Task) (s : State) : State := s.modCtx k Ctx.withdrawn

/-- `FinishAck(k)`, the slice of a task with PHASE = FINISH (rule R220). -/
def finishAck (k : Task) (s : State) : State :=
  (s.modCtx k fun c => { c with phase := .idle }).setAck (setBit s.ack k)

/-- The common part of `Begin(k)` (rule R218). -/
def beginTask (k : Task) (s : State) : State :=
  s.modCtx k fun c => { c with phase := .run, opi := 0, fs := .boundary, polls := 0 }

/-! ### The front-end (rule R46) -/

/-- `PUSH v`. -/
def pushSample (s : State) (v : Sample) : State := s.setRing (s.ring.push s.cfg.ringN s.cfg.setWords v)

/-- The pushes of one group, in order. -/
def pushAll (s : State) (vs : List Sample) : State := vs.foldl pushSample s

/-- A ring read of a page-program slice: the slot as it stands, after which the next group of pushes falls
(rules R80, R192, R229). -/
def ringReadLive (s : State) (slot : Nat) : State × Sample :=
  let v := s.ring.read s.cfg.setWords slot
  match s.env.between with
  | [] => (s, v)
  | g :: rest => (pushAll (s.setEnv { s.env with between := rest }) g, v)

end Sys2Proof.Machine
end

