-- ==== Sys2Proof/Machine/Frames.lean ====
section
/-! DEFINITION. The device frames (40_transport.md rules R120-R135): one meaning per frame row of the opcode table, the
device's response to a frame outside the table, and `transact`, the transport primitive by which a slice sends a
frame. A device acts on a frame at its deselect; what the engine receives stands in `port.rx`. -/

namespace Sys2Proof.Machine

/-! ### Shared operations of the Flash -/

/-- A frame outside rule R100 (rule R129): no effect, `n` data bytes of unspecified value. -/
def malformedFrame (n : Nat) (s : State) : State :=
  (s.setRx (if n = 0 then .none else .data (freeBytes s.env.free n))).useFree n

/-- Whether the device ignores a change of `op`'s target because the calibration region is protected (rules R75,
R123-R125). -/
def FlashOp.inCal (p : Params) (op : FlashOp) : Bool :=
  match op with
  | .program a _ => p.isCal (a.toNat / Config.sectorBytes)
  | .eraseSector sec => p.isCal sec.toNat
  | .eraseBlock blk => (List.range p.blockSectors).any fun i => p.isCal (blk.toNat * p.blockSectors + i)

/-- A program or erase command at its deselect (rules R123-R125): ignored while busy or without write enable; a protected
target only clears WEL; otherwise the device becomes busy with it. -/
def flashCommand (op : FlashOp) (s : State) : State :=
  let f := s.flash
  if f.busy || !f.wel then s
  else if f.bp && op.inCal s.cfg then s.setFlash { f with wel := false }
  else s.setFlash { f with op := some op, busy := true }

/-- A protect or unlock command at its deselect (rules R126, R127). -/
def flashProtection (bp : Bool) (s : State) : State :=
  let f := s.flash
  if f.busy || !f.wel then s else s.setFlash { f with bp := bp, wel := false }

/-- The status byte's bits: BUSY_BIT reads BUSY, the others have unspecified values (rule R102). -/
def statusBits (p : Params) (busy : Bool) (c : Nat) : Vector Bool 8 :=
  Vector.ofFn fun i => if i = p.busyBit then busy else Config.freeBit (c + i.val)

/-- Frames that receive nothing. -/
def State.noRx (s : State) : State := s.setRx .none

/-! ### The meanings -/

/-- FL_WREN (rule R121). -/
def flWren (s : State) : State :=
  (if s.flash.busy then s else s.setFlash { s.flash with wel := true }).noRx

/-- FL_RDSR (rule R122): accepted while busy, read fresh at each frame. -/
def flRdsr (s : State) : State := (s.setRx (.status (statusBits s.cfg s.flash.busy s.env.free))).useFree 8

/-- FL_PP (rule R123). -/
def flPp (p : Packed) (words : List Half) (s : State) : State :=
  if (Instr.flPp p words).illFormed = none then
    (flashCommand (.program (byteAddrOf p) (halvesBytes words)) s).noRx
  else malformedFrame 0 s

/-- FL_SE (rule R124): the page field of the address is ignored. -/
def flSe (p : Packed) (s : State) : State := (flashCommand (.eraseSector (sectorOf p)) s).noRx

/-- FL_BE (rule R125). -/
def flBe (p : Packed) (s : State) : State := (flashCommand (.eraseBlock (blockOf s.cfg p)) s).noRx

/-- FL_ULBPR (rule R126). -/
def flUlbpr (s : State) : State := (flashProtection false s).noRx

/-- FL_PROTECT (rule R127): any data bytes protect the calibration region (rule R100). -/
def flProtect (_data : List Byte) (s : State) : State := (flashProtection true s).noRx

/-- FL_READ (rules R72, R128): unspecified values while busy. -/
def flRead (a : FlashAddr) (n : Nat) (s : State) : State :=
  if (Instr.flRead a n).illFormed = none then
    if s.flash.busy then malformedFrame (2 * n) s
    else s.setRx (.data (s.flash.array.readWrap s.cfg.flashBytes a.toNat (2 * n)))
  else malformedFrame (2 * n) s

/-- FR_WREN (rule R131). -/
def frWren (d : FramSel) (s : State) : State := (s.setFram d { s.fram d with wel := true }).noRx

/-- FR_WRITE (rules R77, R132): complete at the deselect; ignored without write enable. -/
def frWrite (d : FramSel) (a : FramAddr) (bytes : List Byte) (s : State) : State :=
  if (Instr.frWrite d a bytes).illFormed = none then
    (if (s.fram d).wel then
      s.setFram d ⟨(s.fram d).array.writeWrap (s.cfg.framBytes d.dev) a.toNat bytes, false⟩
     else s).noRx
  else malformedFrame 0 s

/-- FR_READ (rules R76, R133). -/
def frRead (d : FramSel) (a : FramAddr) (n : Nat) (s : State) : State :=
  if (Instr.frRead d a n).illFormed = none then
    s.setRx (.data ((s.fram d).array.readWrap (s.cfg.framBytes d.dev) a.toNat n))
  else malformedFrame n s

/-! ### Dispatch's meanings, one per row -/

abbrev Result := Host.Outcome State Fault Refusal

def execFlWren (s : State) : Result := .next (flWren s)
def execFlRdsr (s : State) : Result := .next (flRdsr s)
def execFlPp (p : Packed) (words : List Half) (s : State) : Result := .next (flPp p words s)
def execFlSe (p : Packed) (s : State) : Result := .next (flSe p s)
def execFlBe (p : Packed) (s : State) : Result := .next (flBe p s)
def execFlUlbpr (s : State) : Result := .next (flUlbpr s)
def execFlProtect (data : List Byte) (s : State) : Result := .next (flProtect data s)
def execFlRead (a : FlashAddr) (n : Nat) (s : State) : Result := .next (flRead a n s)
def execFrWren (d : FramSel) (s : State) : Result := .next (frWren d s)
def execFrWrite (d : FramSel) (a : FramAddr) (bytes : List Byte) (s : State) : Result := .next (frWrite d a bytes s)
def execFrRead (d : FramSel) (a : FramAddr) (n : Nat) (s : State) : Result := .next (frRead d a n s)

/-! ### The transport primitive -/

/-- What a device does with a frame; a request bit is no frame. -/
def deviceEffect (i : Instr) (s : State) : State :=
  match i with
  | .flWren => flWren s
  | .flRdsr => flRdsr s
  | .flPp p words => flPp p words s
  | .flSe p => flSe p s
  | .flBe p => flBe p s
  | .flUlbpr => flUlbpr s
  | .flProtect data => flProtect data s
  | .flRead a n => flRead a n s
  | .frWren d => frWren d s
  | .frWrite d a bytes => frWrite d a bytes s
  | .frRead d a n => frRead d a n s
  | .req0CapTrip | .req1CapAlarm | .req2CapExt | .req3EidWrite | .req4EidRead | .req5PeakWrite | .req6PeakRead
    | .req7DlogErase | .req8DlogWrite | .req9TscaleWrite | .req10TscaleRead | .req11CalUnlock
    | .req12CalAfeWrite | .req13CalAdcWrite | .req14CalInjWrite | .req15CalAfeRead | .req16CalAdcRead
    | .req17CalInjRead | .req18FlashRead | .req19FramRead | .req20FramWrite | .req21SectorErase
    | .req22BlockErase | .req23Unassigned | .req24Unassigned | .req25Unassigned | .req26Unassigned
    | .req27Unassigned | .req28Unassigned | .req29Unassigned | .req30Unassigned | .req31Unassigned
    => s

/-- `Frame(…)` (rule R120): the frame that encodes `i` goes out and its device acts on it. -/
def transact (i : Instr) (s : State) : State :=
  deviceEffect i (s.setPort { s.port with sent := s.port.sent ++ [encodeFrame s.cfg.cmds i] })

/-- The data bytes of the last frame (`rx`). -/
def Received.bytes : Received → List Byte
  | .data bs => bs
  | _ => []

/-- The busy bit of the last status frame. -/
def Received.busy (p : Params) : Received → Bool
  | .status bits => bits.get p.busyBit
  | _ => false

/-! ### Power loss (rules R88, R258) -/

/-- The target of a Flash operation left with unspecified bytes. -/
def loseTarget (op : FlashOp) (s : State) : State :=
  let r := op.target s.cfg
  (s.setFlash { s.flash with
    array := s.flash.array.scramble s.cfg.flashBytes r.1 r.2 s.env.free }).useFree r.2

/-- The arrays after a power loss between frames: the target of a busy Flash's operation has unspecified bytes. -/
def loseFlash (s : State) : State :=
  match s.flash.busy, s.flash.op with
  | true, some op => loseTarget op s
  | _, _ => s

/-- The Flash operation a program or erase frame asks for. -/
def flashTarget (c : Params) : Instr → Option FlashOp
  | .flPp p words => some (.program (byteAddrOf p) (halvesBytes words))
  | .flSe p => some (.eraseSector (sectorOf p))
  | .flBe p => some (.eraseBlock (blockOf c p))
  | _ => none

/-- The arrays after a power loss inside the frame of `i`: every byte that a writing frame addresses is unspecified. -/
def loseInFrame (i : Instr) (s : State) : State :=
  match flashTarget s.cfg i with
  | some op => loseTarget op s
  | none =>
    match i with
    | .frWrite d a bytes =>
      (s.setFram d { s.fram d with
        array := (s.fram d).array.scramble (s.cfg.framBytes d.dev) a.toNat bytes.length s.env.free }).useFree bytes.length
    | _ => s

/-- `loseInFrame` for each frame of a list; a frame no device understands changes nothing. -/
def loseInFrames (fs : List Frame) (s : State) : State :=
  fs.foldl (fun s f =>
    match decodeFrame s.cfg.cmds f with
    | .ok i => loseInFrame i s
    | .error _ => s) s

/-- Reset after the power returns: only the arrays survive. The inputs that follow and the count of free values are not
the engine's. -/
def powerBack (s : State) : State :=
  (State.powerUp s.cfg s.flash.array s.fram1.array s.fram2.array).setEnv ⟨s.env.inputs, [], 0, s.env.free⟩

/-- `PWR`. -/
def powerLoss (s : State) : State := powerBack (loseFlash s)

end Sys2Proof.Machine
end

