-- ==== Sys2Proof/Machine/Agents.lean ====
section
/-! DEFINITION. The actions of the other agents (30_encoding.md rule R108, 60_exceptions.md rule R261): the host's
register accesses through the map of 10_state.md rule R22, the front-end's push and the Flash's completion step. -/

namespace Sys2Proof.Machine

/-! ### The register map (rule R22) -/

/-- Where an offset of the context area lies. -/
inductive CtxReg where
  | ctl
  | arg
  | rst
  | prog
  | poll
  | val (i : Fin 62)
  | dflt (i : Fin 62)
  | buf (i : Fin 128)
  deriving DecidableEq, Repr

/-- A register of the map; `unmapped` reads 0 and ignores writes. -/
inductive Reg where
  | req
  | reqSet
  | reqClr
  | ack
  | sflt
  | engstat
  | ringstat
  | ctx (k : Task) (r : CtxReg)
  | unmapped
  deriving DecidableEq, Repr

/-- Element `i` of a register array of `n`, or nothing past its end. -/
def arrayReg (n : Nat) (make : Fin n → CtxReg) (i : Nat) : Option CtxReg :=
  if h : i < n then some (make ⟨i, h⟩) else none

/-- The register at word `o` (offset 4·o) of a context's area. -/
def ctxRegAt (o : Nat) : Option CtxReg :=
  if o = 0 then some .ctl
  else if o = 1 then some .arg
  else if o = 2 then some .rst
  else if o = 3 then some .prog
  else if o = 4 then some .poll
  else if 0x40 ≤ o ∧ o < 0x80 then arrayReg 62 .val (o - 0x40)
  else if 0x80 ≤ o ∧ o < 0x100 then arrayReg 62 .dflt (o - 0x80)
  else if 0x100 ≤ o then arrayReg 128 .buf (o - 0x100)
  else none

/-- The register at an aligned offset; there is one context for each of the REQ_W request bits (rule R30). -/
def regAt (p : Params) (off : Word) : Reg :=
  let a := off.toNat
  if a = 0x000 then .req
  else if a = 0x004 then .reqSet
  else if a = 0x008 then .reqClr
  else if a = 0x00C then .ack
  else if a = 0x010 then .sflt
  else if a = 0x014 then .engstat
  else if a = 0x018 then .ringstat
  else if 0x1000 ≤ a ∧ a < 0x11000 ∧ (a - 0x1000) / 0x800 < p.reqW then
    match ctxRegAt ((a - 0x1000) % 0x800 / 4) with
    | some r => .ctx (Fin.ofNat 32 ((a - 0x1000) / 0x800)) r
    | none => .unmapped
  else .unmapped

/-- The platform address of a register offset: offsets count from ENGINE_BASE (rule R22). -/
def hostAddress (off : Word) : Word := Config.engineBase + off

/-- A host read of a context register. -/
def readCtxReg (c : Ctx) : CtxReg → Word
  | .ctl => c.ctlWord
  | .arg => c.argWord
  | .rst => c.rstWord
  | .prog => c.progWord
  | .poll => c.pollWord
  | .val i => c.val.get i
  | .dflt i => c.dflt.get i
  | .buf i => 0#16 ++ c.buf.get i

/-- A host read (rules R22, R24, R81): no side effect. -/
def readReg (s : State) : Reg → Word
  | .req => s.req
  | .reqSet => 0
  | .reqClr => 0
  | .ack => s.ack
  | .sflt => s.sflt
  | .engstat => engstatWord s.sflt s.prot s.lockV s.lockK
  | .ringstat => ringstatWord s.ring
  | .ctx k r => readCtxReg (s.ctxAt k) r
  | .unmapped => 0

/-- A host write to a context register: engine-owned fields ignore it; ABORT is set by writing 1 (rules R22, R34);
RSTART keeps the log2(RING_N) bits it has (rule R41). -/
def writeCtxReg (p : Params) (c : Ctx) (v : Word) : CtxReg → Ctx
  | .ctl => { c with abort := c.abort || v.getLsbD 12 }
  | .arg => { c with addr := v.extractLsb' 0 16, dev := v.extractLsb' 16 2, n := v.extractLsb' 24 8 }
  | .rst => { c with rstart := BitVec.ofNat 32 (v.toNat % p.ringN) }
  | .prog => c
  | .poll => c
  | .val i => { c with val := c.val.set i.val v }
  | .dflt i => { c with dflt := c.dflt.set i.val v }
  | .buf i => { c with buf := c.buf.set i.val (v.extractLsb' 0 16) }

/-- A host write (rules R22-R26): a bit of REQ_SET above REQ_W names no request and is ignored. -/
def writeReg (s : State) (v : Word) : Reg → State
  | .reqSet => s.setReq (s.req ||| (v &&& s.cfg.reqMask))
  | .reqClr => s.setReq (s.req &&& ~~~v)
  | .sflt => s.setSflt (s.sflt &&& ~~~v)
  | .ctx k r => s.modCtx k fun c => writeCtxReg s.cfg c v r
  | _ => s

/-- Why a host access is refused: only aligned 32-bit accesses are defined (rule R22). -/
def accessRefusal (width : Width) (off : Word) : Option Refusal :=
  if width ≠ .word then some .narrowHostAccess
  else if off.toNat % 4 ≠ 0 then some .misalignedHostAccess
  else none

def hostWrite (width : Width) (off v : Word) (s : State) : Result :=
  match accessRefusal width off with
  | some r => .refused r
  | none => .next (writeReg s v (regAt s.cfg off))

/-- The value read stands in `env.hostData`. -/
def hostRead (width : Width) (off : Word) (s : State) : Result :=
  match accessRefusal width off with
  | some r => .refused r
  | none => .next (s.setEnv { s.env with hostData := readReg s (regAt s.cfg off) })

/-! ### The Flash's completion step (rule R79) -/

/-- `DONE`: the operation is applied and the device is idle; a Flash that is not busy has no such step to take. -/
def flashDone (s : State) : State :=
  let f := s.flash
  match f.busy, f.op with
  | true, some op =>
    s.setFlash { f with array := op.apply s.cfg f.array, busy := false, wel := false, op := none }
  | _, _ => s

end Sys2Proof.Machine
end

