-- ==== Sys2Proof/Machine/Arbiter.lean ====
section
/-! DEFINITION. The arbiter's part of a tick (45_arbiter.md rules R210-R213, R216): release, supersede, withdrawal, and
the choice of the task the slice serves. REQ cannot change under a tick but by the tick itself, which clears R and REQ
together (rules R212, R215), so REQ stands for the snapshot R throughout. -/

namespace Sys2Proof.Machine

/-! ### Release (rule R211) -/

def release (s : State) : State := s.setAck (releasedAck s.req s.ack)

/-! ### Supersede (rule R212) -/

/-- A capture request pending and not acknowledged. -/
def isPending (s : State) (k : Task) : Bool := bitAt s.req k && !bitAt s.ack k

/-- A new request of `hi` supersedes `lo`: both pending, `hi` not begun, `lo` not finished. A capture whose request the
host has cleared before the tick is not pending, so it is not superseded but withdrawn (rule R216). That this formula
of rule R212 decides, where rules R228 and R253 say that a task both withdrawn and superseded in one tick ends
ABORTED, is the model's choice (log entry 19). -/
def supersedes (s : State) (hi lo : Task) : Bool :=
  isPending s hi && (s.ctxAt hi).phase == .idle && isPending s lo && (s.ctxAt lo).phase != .finish

/-- The set S, computed from the snapshot. PAIRS are the capture tasks two by two, the smaller index first: trip over
alarm, trip over extended, alarm over extended (rules R94 (c1) and (c4), R212). -/
def supersededTasks (s : State) : List Task :=
  (s.cfg.tasksOf .capture).filter fun lo =>
    (s.cfg.tasksOf .capture).any fun hi => decide (hi < lo) && supersedes s hi lo

/-- One superseded task: ABORT set, the request cleared, retired at once unless it is inside a device operation. -/
def supersedeTask (lo : Task) (s : State) : State :=
  let s1 := (s.modCtx lo fun c => { c with abort := true }).setReq (clearBit s.req lo)
  if s1.holdsLock lo then s1 else retire lo s1

def supersede (s : State) : State := (supersededTasks s).foldl (fun s lo => supersedeTask lo s) s

/-! ### Withdrawal (rule R216) -/

/-- Whether `WithdrawAll` withdraws task `k`. -/
def isWithdrawn (s : State) (k : Task) : Bool :=
  !bitAt s.req k && (s.ctxAt k).phase != .idle && !s.holdsLock k

def withdrawAll (s : State) : State :=
  { s with ctx := Vector.ofFn fun k => if isWithdrawn s k then (s.ctxAt k).withdrawn else s.ctxAt k }

/-! ### Selection (rules R210, R213) -/

/-- Steps 1 to 4 of a tick. The transport is idle between ticks (rule R49), so the record of frames starts empty. -/
def arbitrate (s : State) : State :=
  withdrawAll (supersede (release (s.setPort { s.port with rx := .none, sent := [] })))

/-- The request word the slice is decoded from: the LOCK holder's bit, else the pending requests. -/
def selectedWord (s : State) : Word := if s.lockV then requestWord s.lockK else pendingWord s.req s.ack

/-- The task the tick serves, if any. -/
def State.sel (s : State) : Option Task := if s.lockV then some s.lockK else s.scan

/-- The end of a tick: the transport's data is gone (rule R49); pushes that no ring read took have still happened. -/
def endTick (s : State) : State :=
  let s1 := s.env.between.foldl pushAll (s.setPort { s.port with rx := .none })
  s1.setEnv { s1.env with between := [] }

end Sys2Proof.Machine
end

