-- ==== Sys2Proof/Machine/Engine.lean ====
section
/-! DEFINITION. The slice of a task (45_arbiter.md rules R217-R219) and the device operations it runs: the Flash
operation FOP and the FRAM write operation WOP of 42_flash_engine.md rules R150-R158. A class of operations gives its
part as a `ClassRule`; the families build one for each task. -/

namespace Sys2Proof.Machine

/-- What a class of operations adds to the shared slice. -/
structure ClassRule where
  /-- The class's part of Begin (rule R218). -/
  start    : State → State
  /-- The begin check (rule R218). -/
  valid    : State → Bool
  /-- The class step at an op boundary, FS = 0 (rule R219). -/
  boundary : State → State
  /-- The data function of the device operation in progress, whose word count is its argument, called in the slice that
  sends the data; reading the ring may let pushes fall (rule R229). -/
  data     : Nat → State → State × List Half
  /-- What the class records when the operation completes, and the status its work is complete with, if it is. -/
  commit   : State → State × Option Status
  /-- Whether the class acts on ABORT (rule R34). -/
  captures : Bool

/-! ### Completion -/

/-- The task's next step after a device operation (rules R155, R217): the class's commit, then abort, then completion, then
withdrawal, else the task continues. -/
def opComplete (k : Task) (r : ClassRule) (s : State) : State :=
  let done := r.commit s
  let s1 := done.1
  if r.captures && (s1.ctxAt k).abort then retire k s1
  else
    match done.2 with
    | some st => finish k st s1
    | none => if bitAt s1.req k then s1 else withdraw k s1

/-- The end of a device operation: LOCK released, FS at the boundary, then `opComplete`. -/
def endOp (k : Task) (r : ClassRule) (s : State) : State := opComplete k r ((s.dropLock).setFs k .boundary)

/-! ### Flash operations -/

/-- Write-enable step (rule R150); the operation `op` is kept, its kind and its address fixed here. -/
def startFop (k : Task) (op : DeviceOp) (s : State) : State :=
  ((transact .flWren s).takeLock k).modCtx k fun c => { c with polls := 0, fs := .enabled, op := op }

/-- POLLS after one more busy poll, saturating (rule R153). -/
def nextPolls (p : BitVec 16) : BitVec 16 := if p = 0xFFFF then p else p + 1

/-- Poll limit (rule R154): off where `BUSY_POLL_LIMIT` is none. Rule R154 asks POLLS, which saturates at 0xFFFF (rule R37),
to reach T, so a limit above 0xFFFF never ends a task; that this decides, where decision D29 counts T busy polls, is the
model's choice (log entry 22). -/
def pollLimit (k : Task) (s : State) : State :=
  if s.cfg.busyPollLimit = some (s.ctxAt k).polls.toNat then
    finish k .timeout ((s.dropLock).modCtx k fun c => { c with fs := .boundary, pend := 0 })
  else s

/-- Busy-poll step (rule R153). -/
def pollStep (k : Task) (r : ClassRule) (s : State) : State :=
  let s1 := transact .flRdsr s
  if s1.port.rx.busy s.cfg then pollLimit k (s1.modCtx k fun c => { c with polls := nextPolls c.polls })
  else endOp k r (s1.modCtx k fun c => { c with polls := 0 })

/-- Command step (rules R151, R152) and the write step of a WOP (rule R158), of the operation that the op boundary kept.
Where none was kept there is nothing to send and the operation ends; no run comes there (log entry 15). -/
def commandStep (k : Task) (r : ClassRule) (s : State) : State :=
  match (s.ctxAt k).op with
  | .prog p n =>
    let d := r.data n s
    (transact (.flPp p d.2) d.1).setFs k .issued
  | .se p => (transact (.flSe p) s).setFs k .issued
  | .be p => (transact (.flBe p) s).setFs k .issued
  | .protect => endOp k r (transact (.flProtect s.cfg.protectData) s)
  | .unlock => endOp k r (transact .flUlbpr s)
  | .fram d a n =>
    let b := r.data n s
    endOp k r (transact (.frWrite d a (halvesBytes b.2)) b.1)
  | .none => endOp k r s

/-- The device operation of a task goes on by one step (rule R219). -/
def continueOp (k : Task) (r : ClassRule) (s : State) : State :=
  if (s.ctxAt k).fs = .enabled then commandStep k r s else pollStep k r s

/-! ### FRAM write operations -/

/-- Write-enable step of a WOP to `d` (rule R158); the operation `op` is kept, its device and address fixed here. -/
def startWop (k : Task) (d : FramSel) (op : DeviceOp) (s : State) : State :=
  ((transact (.frWren d) s).takeLock k).modCtx k fun c => { c with fs := .enabled, op := op }

/-- The first step of a device operation, by its kind (rules R150, R158). -/
def startOp (k : Task) (op : DeviceOp) (s : State) : State :=
  match op with
  | .fram d _ _ => startWop k d op s
  | .none => s
  | .prog _ _ | .se _ | .be _ | .protect | .unlock => startFop k op s

/-! ### The slice -/

/-- A slice of a running task: its device operation goes on, or its class takes a step (rule R219). -/
def runTask (k : Task) (r : ClassRule) (s : State) : State :=
  if (s.ctxAt k).fs = .boundary then r.boundary s else continueOp k r s

/-- `Slice(k)` (rules R218-R220). -/
def slice (k : Task) (r : ClassRule) (s : State) : State :=
  match (s.ctxAt k).phase with
  | .finish => finishAck k s
  | .run => runTask k r s
  | .idle =>
    let s1 := r.start (beginTask k s)
    if r.valid s1 then runTask k r s1 else finish k .invalidParam s1

end Sys2Proof.Machine
end

