-- ==== Sys2Proof/Machine/Capture.lean ====
section
/-! DEFINITION. The waveform streaming writer: the class CAPTURE (44_waveform_streamer.md rules R190-R199). -/

namespace Sys2Proof.Machine

/-- NZERO of a capture that begins now (rule R191): the slots from RSTART to the ring's end, where a ring that has never
wrapped has not written them. -/
def zeroCount (size : Nat) (r : Ring) (rstart : BitVec 32) : BitVec 33 :=
  if !r.filled && decide (r.w ≤ rstart) then BitVec.ofNat 33 (size - rstart.toNat) else 0

/-- The capture's part of Begin (rule R191); ABORT is not cleared. -/
def captureStart (k : Task) (s : State) : State :=
  s.modCtx k fun c =>
    { c with count := 0, pend := 0, needErase := true, nzero := zeroCount s.cfg.ringN s.ring c.rstart }

/-- The sample-sets of the next page: 7, or what is left (rule R194). -/
def setsInPage (count : BitVec 12) : Nat := min Config.setsPerPage (Config.capLen - count.toNat)

/-- The op boundary (rules R193, R194): the abort check, then the erase of a new sector or the next page program, at the
cursor as it stands now: SectorErase(ADDR) or PageWrite(ADDR, m·S_W, PageData). -/
def captureBoundary (k : Task) (s : State) : State :=
  let c := s.ctxAt k
  let m := setsInPage c.count
  if c.abort then retire k s
  else if c.needErase then startFop k (.se c.addr) (s.setCtx k { c with opi := 0 })
  else startFop k (.prog c.addr (m * s.cfg.setWords)) (s.setCtx k { c with opi := 1, pend := BitVec.ofNat 3 m })

/-- `Sample(n)` (rule R192): zeros below NZERO, else the ring slot as it stands now. -/
def sampleAt (k : Task) (n : Nat) (s : State) : State × Sample :=
  let c := s.ctxAt k
  if n < c.nzero.toNat then (s, zeroSample s.cfg.setWords)
  else ringReadLive s ((c.rstart.toNat + n) % s.cfg.ringN)

/-- `m` sample-sets from number `n` on, in order. -/
def samplesFrom (k : Task) (m n : Nat) (s : State) : State × List Half :=
  match m with
  | 0 => (s, [])
  | m' + 1 =>
    let v := sampleAt k n s
    let rest := samplesFrom k m' (n + 1) v.1
    (rest.1, v.2 ++ rest.2)

/-- `PageData(k, m)` (rule R194) with m = PEND, evaluated at the PP slice. -/
def pageData (k : Task) (_n : Nat) (s : State) : State × List Half :=
  samplesFrom k (s.ctxAt k).pend.toNat (s.ctxAt k).count.toNat s

/-- The page commit (rule R196). -/
def commitPage (c : Ctx) : Ctx :=
  let addr := nextPage c.addr
  { c with
    count     := c.count + c.pend.setWidth 12
    pend      := 0
    addr      := addr
    needErase := c.needErase || pageField addr == 0 }

/-- What a completed operation records (rules R195, R196) and whether the capture is complete (rules R197, R217). -/
def captureCommit (k : Task) (s : State) : State × Option Status :=
  let s1 := s.modCtx k fun c => if c.opi = 0 then { c with needErase := false } else commitPage c
  (s1, if (s1.ctxAt k).count.toNat = Config.capLen then some .ok else none)

/-- CAPTURE (rules R190-R197): no begin check. -/
def captureRule (k : Task) : ClassRule where
  start    := captureStart k
  valid    := fun _ => true
  boundary := captureBoundary k
  data     := pageData k
  commit   := captureCommit k
  captures := true

end Sys2Proof.Machine
end

