-- ==== Sys2Proof/Machine/Generic.lean ====
section
/-! DEFINITION. The generic operation classes PAGE_WRITE, ERASE_SECTOR, ERASE_BLOCK, READ and FRAM_WRITE
(45_arbiter.md rules R230-R234) and the class NONE of the unassigned bits (rule R221). -/

namespace Sys2Proof.Machine

/-- A class of one device operation: its op boundary starts it, its completion ends the task OK. Data are the words of BUF
as they stand at the slice that sends them, as many as N was at the op boundary, where the begin check was made: that
N is not read again is the model's choice (log entry 18). -/
def singleOp (k : Task) (valid : State → Bool) (op : State → DeviceOp) : ClassRule where
  start    := id
  valid    := valid
  boundary := fun s => startOp k (op s) s
  data     := fun n s => (s, (s.ctxAt k).bufWords n)
  commit   := fun s => (s, some .ok)
  captures := false

/-- PAGE_WRITE (rule R231): the BUF words are read at the PP slice; ADDR is not advanced. -/
def pageWriteRule (k : Task) : ClassRule :=
  singleOp k (fun s => wordCountOk (s.ctxAt k).n)
    (fun s => .prog (s.ctxAt k).addr (s.ctxAt k).n.toNat)

/-- ERASE_SECTOR (rule R232): no begin check. -/
def eraseSectorRule (k : Task) : ClassRule := singleOp k (fun _ => true) (fun s => .se (s.ctxAt k).addr)

/-- ERASE_BLOCK (rule R232). -/
def eraseBlockRule (k : Task) : ClassRule := singleOp k (fun _ => true) (fun s => .be (s.ctxAt k).addr)

/-- The device a generic task's selector names, where it is one of the task's set (rules R98, R230). -/
def selectedDev (k : Task) (s : State) : Option Dev :=
  (devOfSelector (s.ctxAt k).dev).filter fun d => (s.taskCfg k).devs.contains d

/-- The frame of a generic READ (rule R233). -/
def readFrame (p : Params) (c : Ctx) (d : Dev) : Instr :=
  match framSel d with
  | none => .flRead (byteAddrOf c.addr) c.n.toNat
  | some sel => .frRead sel (framAddr p d c.addr.toNat) (2 * c.n.toNat)

/-- The one slice of a READ (rule R233): a frame, its words into BUF, Finish(OK). -/
def readStep (k : Task) (s : State) : State :=
  match selectedDev k s with
  | none => s
  | some d =>
    let s1 := transact (readFrame s.cfg (s.ctxAt k) d) s
    finish k .ok (s1.modCtx k fun c => c.withBuf c.n.toNat (halvesOf s1.port.rx.bytes))

/-- READ (rule R233): no device operation and no LOCK. -/
def readRule (k : Task) : ClassRule where
  start    := id
  valid    := fun s => (selectedDev k s).isSome && wordCountOk (s.ctxAt k).n
  boundary := readStep k
  data     := fun _ s => (s, [])
  commit   := fun s => (s, some .ok)
  captures := false

/-- The write operation of a FRAM_WRITE (rule R234), its device, address and count taken at the op boundary (log
entry 18). -/
def framWriteOp (k : Task) (s : State) : DeviceOp :=
  match selectedDev k s with
  | none => .none
  | some d =>
    match framSel d with
    | none => .none
    | some sel => .fram sel (framAddr s.cfg d (s.ctxAt k).addr.toNat) (s.ctxAt k).n.toNat

/-- FRAM_WRITE (rules R230, R234): the selector must be an FRAM of the task's set. -/
def framWriteRule (k : Task) : ClassRule :=
  singleOp k (fun s => ((selectedDev k s).bind framSel).isSome && wordCountOk (s.ctxAt k).n) (framWriteOp k)

/-- NONE (rule R221): the begin check always fails. -/
def noneRule : ClassRule where
  start    := id
  valid    := fun _ => false
  boundary := id
  data     := fun _ s => (s, [])
  commit   := fun s => (s, none)
  captures := false

end Sys2Proof.Machine
end

