-- ==== Sys2Proof/Machine/Record.lean ====
section
/-! DEFINITION. The redundant record classes RR_WRITE, RR_READ, CAL_WRITE and CAL_UNLOCK
(43_redundant_record.md rules R170-R181). -/

namespace Sys2Proof.Machine

/-! ### RR_WRITE -/

/-- The FRAM of a task's record, where its device is one. -/
def recordFram (c : TaskCfg) : Option FramSel := (taskDev c).bind framSel

/-- The write operation of an RR_WRITE: the primary copy at OPI = 0, then the secondary (rule R173). -/
def recordWriteOp (k : Task) (s : State) : DeviceOp :=
  match recordFram (s.taskCfg k) with
  | none => .none
  | some sel =>
    .fram sel (framCopyAddr s.cfg (s.taskCfg k) sel.dev ((s.ctxAt k).opi != 0)) (recordWordCount (s.taskCfg k).len)

/-- The record's words, computed from VAL in the slice that sends them (rules R173, R179). -/
def recordData (k : Task) (_n : Nat) (s : State) : State × List Half := (s, recordHalves (s.ctxAt k) (s.taskCfg k).len)

/-- RR_WRITE (rules R172, R173). -/
def recordWriteRule (k : Task) : ClassRule where
  start    := id
  valid    := fun s => (recordFram (s.taskCfg k)).isSome && recordLenOk s.cfg (s.taskCfg k).len
  boundary := fun s => startOp k (recordWriteOp k s) s
  data     := recordData k
  commit   := fun s =>
    if (s.ctxAt k).opi = 0 then (s.modCtx k fun c => { c with opi := 1 }, none) else (s, some .ok)
  captures := false

/-! ### RR_READ -/

/-- The frame that reads one copy of a record (rule R175). -/
def copyFrame (p : Params) (c : TaskCfg) (d : Dev) (second : Bool) : Instr :=
  match framSel d with
  | none => .flRead (byteAddrOf (flashCopyAddr p c second)) (recordWordCount c.len)
  | some sel => .frRead sel (framCopyAddr p c d second) (2 * recordWordCount c.len)

/-- `DefaultRead(k)` (rule R176): the caller's default, the sticky soft-fault flag raised at every call. -/
def defaultRead (k : Task) (len : Nat) (s : State) : State :=
  let s1 := (s.modCtx k fun c => { c.withVal len (c.defaults len) with src := .default }).setSflt (setBit s.sflt k)
  finish k .defaulted s1

/-- A record accepted from one copy (rule R175). -/
def acceptRecord (k : Task) (len : Nat) (words : List Word) (src : Src) (s : State) : State :=
  finish k .ok (s.modCtx k fun c => { c.withVal len words with src := src })

/-- The read of one copy (rules R171, R175): the primary at OPI = 0, else the secondary. -/
def recordReadStep (k : Task) (s : State) : State :=
  let cfg := s.taskCfg k
  match taskDev cfg with
  | none => s
  | some d =>
    let second := (s.ctxAt k).opi != 0
    let s1 := transact (copyFrame s.cfg cfg d second) s
    let words := recordOf s1.port.rx.bytes
    if validRecord words cfg.len then acceptRecord k cfg.len words (if second then .secondary else .primary) s1
    else if second then defaultRead k cfg.len s1
    else s1.modCtx k fun c => { c with opi := 1 }

/-- RR_READ (rules R174-R176). -/
def recordReadRule (k : Task) : ClassRule where
  start    := fun s => s.modCtx k fun c => { c with src := .noRead }
  valid    := fun s => (taskDev (s.taskCfg k)).isSome && recordLenOk s.cfg (s.taskCfg k).len
  boundary := recordReadStep k
  data     := fun _ s => (s, [])
  commit   := fun s => (s, none)
  captures := false

/-! ### CAL_WRITE -/

/-- The Flash operation of a CAL_WRITE at its OPI (rule R179). -/
def calWriteOp (k : Task) (s : State) : DeviceOp :=
  let cfg := s.taskCfg k
  let i := (s.ctxAt k).opi
  let n := recordWordCount cfg.len
  if i = 0 then .se (flashCopyAddr s.cfg cfg false)
  else if i = 1 then .prog (flashCopyAddr s.cfg cfg false) n
  else if i = 2 then .se (flashCopyAddr s.cfg cfg true)
  else if i = 3 then .prog (flashCopyAddr s.cfg cfg true) n
  else .protect

/-- The op boundary of a CAL_WRITE: PROT is checked before each of the first four operations (rule R179), not before the
protect step (rule R180). -/
def calWriteBoundary (k : Task) (s : State) : State :=
  if s.prot && (s.ctxAt k).opi.toNat < 4 then finish k .writeProtected s
  else startOp k (calWriteOp k s) s

/-- CAL_WRITE (rules R178-R180). -/
def calWriteRule (k : Task) : ClassRule where
  start    := id
  valid    := fun s => (taskDev (s.taskCfg k) == some .flash) && recordLenOk s.cfg (s.taskCfg k).len
  boundary := calWriteBoundary k
  data     := recordData k
  commit   := fun s =>
    if (s.ctxAt k).opi.toNat < 4 then (s.modCtx k fun c => { c with opi := c.opi + 1 }, none)
    else (s.setProt true, some .ok)
  captures := false

/-! ### CAL_UNLOCK -/

/-- CAL_UNLOCK (rule R181): no begin check; not refused when PROT is 0 already. -/
def calUnlockRule (k : Task) : ClassRule where
  start    := id
  valid    := fun _ => true
  boundary := fun s => startOp k .unlock s
  data     := fun _ s => (s, [])
  commit   := fun s => (s.setProt false, some .ok)
  captures := false

end Sys2Proof.Machine
end

