-- ==== Sys2Proof/Machine/Requests.lean ====
section
/-! DEFINITION. The meanings of the thirty-two request bits (30_encoding.md rules R90-R93, 45_arbiter.md rule R219): one
slice of the bit's task, by the class that TASKCFG gives it. The names are those of the default TASKCFG. -/

namespace Sys2Proof.Machine

/-- The rule of a task of each class (rule R92). -/
def classRule (k : Task) (cls : OpClass) : ClassRule :=
  match cls with
  | .capture => captureRule k
  | .rrWrite => recordWriteRule k
  | .rrRead => recordReadRule k
  | .calWrite => calWriteRule k
  | .calUnlock => calUnlockRule k
  | .pageWrite => pageWriteRule k
  | .eraseSector => eraseSectorRule k
  | .eraseBlock => eraseBlockRule k
  | .read => readRule k
  | .framWrite => framWriteRule k
  | .unassigned => noneRule

/-- The rule of task `k`, by the class of its row of TASKCFG (rules R91, R219). -/
def taskRule (k : Task) (s : State) : ClassRule := classRule k (s.taskCfg k).cls

/-- One slice of task `k`. -/
def serve (k : Task) (s : State) : State := slice k (taskRule k s) s

/-! ### Dispatch's meanings -/

def execReq0CapTrip (s : State) : Result := .next (serve 0 s)
def execReq1CapAlarm (s : State) : Result := .next (serve 1 s)
def execReq2CapExt (s : State) : Result := .next (serve 2 s)
def execReq3EidWrite (s : State) : Result := .next (serve 3 s)
def execReq4EidRead (s : State) : Result := .next (serve 4 s)
def execReq5PeakWrite (s : State) : Result := .next (serve 5 s)
def execReq6PeakRead (s : State) : Result := .next (serve 6 s)
def execReq7DlogErase (s : State) : Result := .next (serve 7 s)
def execReq8DlogWrite (s : State) : Result := .next (serve 8 s)
def execReq9TscaleWrite (s : State) : Result := .next (serve 9 s)
def execReq10TscaleRead (s : State) : Result := .next (serve 10 s)
def execReq11CalUnlock (s : State) : Result := .next (serve 11 s)
def execReq12CalAfeWrite (s : State) : Result := .next (serve 12 s)
def execReq13CalAdcWrite (s : State) : Result := .next (serve 13 s)
def execReq14CalInjWrite (s : State) : Result := .next (serve 14 s)
def execReq15CalAfeRead (s : State) : Result := .next (serve 15 s)
def execReq16CalAdcRead (s : State) : Result := .next (serve 16 s)
def execReq17CalInjRead (s : State) : Result := .next (serve 17 s)
def execReq18FlashRead (s : State) : Result := .next (serve 18 s)
def execReq19FramRead (s : State) : Result := .next (serve 19 s)
def execReq20FramWrite (s : State) : Result := .next (serve 20 s)
def execReq21SectorErase (s : State) : Result := .next (serve 21 s)
def execReq22BlockErase (s : State) : Result := .next (serve 22 s)
def execReq23Unassigned (s : State) : Result := .next (serve 23 s)
def execReq24Unassigned (s : State) : Result := .next (serve 24 s)
def execReq25Unassigned (s : State) : Result := .next (serve 25 s)
def execReq26Unassigned (s : State) : Result := .next (serve 26 s)
def execReq27Unassigned (s : State) : Result := .next (serve 27 s)
def execReq28Unassigned (s : State) : Result := .next (serve 28 s)
def execReq29Unassigned (s : State) : Result := .next (serve 29 s)
def execReq30Unassigned (s : State) : Result := .next (serve 30 s)
def execReq31Unassigned (s : State) : Result := .next (serve 31 s)

end Sys2Proof.Machine
end

