-- ==== Sys2Proof/Machine/Dispatch.lean ====
section
/-! DEFINITION. The meaning of every instruction, one arm per constructor. -/

namespace Sys2Proof.Machine

def exec (i : Instr) (s : State) : Host.Outcome State Fault Refusal :=
  match i with
  | .flWren => Sys2Proof.Machine.execFlWren s
  | .flRdsr => Sys2Proof.Machine.execFlRdsr s
  | .flPp p words => Sys2Proof.Machine.execFlPp p words s
  | .flSe p => Sys2Proof.Machine.execFlSe p s
  | .flBe p => Sys2Proof.Machine.execFlBe p s
  | .flUlbpr => Sys2Proof.Machine.execFlUlbpr s
  | .flProtect data => Sys2Proof.Machine.execFlProtect data s
  | .flRead a n => Sys2Proof.Machine.execFlRead a n s
  | .frWren d => Sys2Proof.Machine.execFrWren d s
  | .frWrite d a bytes => Sys2Proof.Machine.execFrWrite d a bytes s
  | .frRead d a n => Sys2Proof.Machine.execFrRead d a n s
  | .req0CapTrip => Sys2Proof.Machine.execReq0CapTrip s
  | .req1CapAlarm => Sys2Proof.Machine.execReq1CapAlarm s
  | .req2CapExt => Sys2Proof.Machine.execReq2CapExt s
  | .req3EidWrite => Sys2Proof.Machine.execReq3EidWrite s
  | .req4EidRead => Sys2Proof.Machine.execReq4EidRead s
  | .req5PeakWrite => Sys2Proof.Machine.execReq5PeakWrite s
  | .req6PeakRead => Sys2Proof.Machine.execReq6PeakRead s
  | .req7DlogErase => Sys2Proof.Machine.execReq7DlogErase s
  | .req8DlogWrite => Sys2Proof.Machine.execReq8DlogWrite s
  | .req9TscaleWrite => Sys2Proof.Machine.execReq9TscaleWrite s
  | .req10TscaleRead => Sys2Proof.Machine.execReq10TscaleRead s
  | .req11CalUnlock => Sys2Proof.Machine.execReq11CalUnlock s
  | .req12CalAfeWrite => Sys2Proof.Machine.execReq12CalAfeWrite s
  | .req13CalAdcWrite => Sys2Proof.Machine.execReq13CalAdcWrite s
  | .req14CalInjWrite => Sys2Proof.Machine.execReq14CalInjWrite s
  | .req15CalAfeRead => Sys2Proof.Machine.execReq15CalAfeRead s
  | .req16CalAdcRead => Sys2Proof.Machine.execReq16CalAdcRead s
  | .req17CalInjRead => Sys2Proof.Machine.execReq17CalInjRead s
  | .req18FlashRead => Sys2Proof.Machine.execReq18FlashRead s
  | .req19FramRead => Sys2Proof.Machine.execReq19FramRead s
  | .req20FramWrite => Sys2Proof.Machine.execReq20FramWrite s
  | .req21SectorErase => Sys2Proof.Machine.execReq21SectorErase s
  | .req22BlockErase => Sys2Proof.Machine.execReq22BlockErase s
  | .req23Unassigned => Sys2Proof.Machine.execReq23Unassigned s
  | .req24Unassigned => Sys2Proof.Machine.execReq24Unassigned s
  | .req25Unassigned => Sys2Proof.Machine.execReq25Unassigned s
  | .req26Unassigned => Sys2Proof.Machine.execReq26Unassigned s
  | .req27Unassigned => Sys2Proof.Machine.execReq27Unassigned s
  | .req28Unassigned => Sys2Proof.Machine.execReq28Unassigned s
  | .req29Unassigned => Sys2Proof.Machine.execReq29Unassigned s
  | .req30Unassigned => Sys2Proof.Machine.execReq30Unassigned s
  | .req31Unassigned => Sys2Proof.Machine.execReq31Unassigned s

end Sys2Proof.Machine
end

