-- ==== Sys2Proof/Machine/Tick.lean ====
section
/-! DEFINITION. The tick (45_arbiter.md rule R210), a device's response to a frame on the wire, and the other actions of
the agents. The instruction a tick runs is decoded from the request word (30_encoding.md rules R90, R91), the one a
device runs from the frame (rule R101). -/

namespace Sys2Proof.Machine

/-- `Tick()` (rule R210). -/
def tick (s : State) : Result :=
  let s1 := arbitrate s
  match decode s.cfg.cmds (.request (selectedWord s1)) with
  | .error _ => .next (endTick s1)
  | .ok i =>
    match exec i s1 with
    | .next s2 => .next (endTick s2)
    | .fault r => .fault r
    | .refused r => .refused r

/-- The device's side of a frame on the wire (rules R101, R120, R129). -/
def deviceStep (f : Frame) (s : State) : Result :=
  let s1 := s.setPort { s.port with bus := none }
  match decode s.cfg.cmds (.frame f) with
  | .ok i => exec i s1
  | .error _ => .next (malformedFrame f.nIn s1)

/-- Power loss inside the frame that the next tick sends (rules R88, R258): the tick's engine effects are lost with the
rest, the arrays change as rule R88 says. -/
def powerLossInFrame (s : State) : Result :=
  match tick s with
  | .next s' => .next (powerBack (loseInFrames s'.port.sent (loseFlash s)))
  | .fault r => .fault r
  | .refused r => .refused r

/-- One action of an agent. -/
def act (a : Action) (s : State) : Result :=
  match a with
  | .hostWrite width off v => hostWrite width off v s
  | .hostRead width off => hostRead width off s
  | .push v => .next (pushSample s v)
  | .tick between => tick (s.setEnv { s.env with between := between })
  | .done => .next (flashDone s)
  | .power => .next (powerLoss s)
  | .powerInFrame => powerLossInFrame s

/-- `s` with an encoded operation where the next step fetches it: a frame on the wire, or a request word in REQ with no
acknowledge and no LOCK in its way and no action before the tick (log entry 6). -/
def State.withCode (s : State) (c : Code) : State :=
  match c with
  | .frame f => s.setPort { s.port with bus := some f }
  | .request w =>
    (((s.setReq w).setAck (s.ack &&& ~~~w)).dropLock.setPort { s.port with bus := none }).setEnv
      { s.env with inputs := [] }

end Sys2Proof.Machine
end

