-- ==== Sys2Proof/Machine/Step.lean ====
section
/-! DEFINITION. One step of the machine: a device acts on a frame that is on the wire, else the next action of the
agents happens, else the engine ticks (log entry 6). -/

namespace Sys2Proof.Machine

/-- One step. -/
def step (s : State) : Host.Outcome State Fault Refusal :=
  match s.port.bus with
  | some f => deviceStep f s
  | none =>
    match s.env.inputs with
    | [] => tick s
    | a :: rest => act a (s.setEnv { s.env with inputs := rest })

/-- The host's entry: a table word placed where the next step fetches it. -/
def State.withFetchWord (s : State) (nbits w : Nat) : State := s.withCode (codeOfTableWord nbits w)

end Sys2Proof.Machine
end

