-- ==== Sys2Proof/Machine/Script.lean ====
section
/-! DEFINITION. The program notation (30_encoding.md rules R108, R109): the lines of a host script as the agents' actions
they stand for, the pseudo-actions as their expansions, and the run of a script. -/

namespace Sys2Proof.Machine

/-! ### Lines (rule R108) -/

/-- The register offset of a context register (rule R22). -/
def ctxOffset (k : Task) (o : Nat) : Word := BitVec.ofNat 32 (0x1000 + 0x800 * k.val + o)

/-- `SET k`. -/
def scriptSet (k : Task) : Action := .hostWrite .word 0x004 (requestWord k)
/-- `CLR k`. -/
def scriptClr (k : Task) : Action := .hostWrite .word 0x008 (requestWord k)
/-- `ABORT k`. -/
def scriptAbort (k : Task) : Action := .hostWrite .word (ctxOffset k 0) 0x1000
/-- `CLRFLT k`. -/
def scriptClrFlt (k : Task) : Action := .hostWrite .word 0x010 (requestWord k)
/-- The word of a context's ARG register, which the fields ADDR, DEV and N share (rule R22). -/
def argWordOf (addr : BitVec 16) (dev : BitVec 2) (n : BitVec 8) : Word := (n ++ 0#6) ++ dev ++ addr
/-- `W CTX[k].ARG = {N, DEV, ADDR}`. -/
def scriptArg (k : Task) (addr : BitVec 16) (dev : BitVec 2) (n : BitVec 8) : Action :=
  .hostWrite .word (ctxOffset k 0x004) (argWordOf addr dev n)
/-- `W CTX[k].RSTART`. -/
def scriptRst (k : Task) (rstart : BitVec 32) : Action := .hostWrite .word (ctxOffset k 0x008) rstart
/-- `W CTX[k].VAL[i]`. -/
def scriptVal (k : Task) (i : Fin 62) (v : Word) : Action := .hostWrite .word (ctxOffset k (0x100 + 4 * i.val)) v
/-- `W CTX[k].DFLT[i]`. -/
def scriptDflt (k : Task) (i : Fin 62) (v : Word) : Action := .hostWrite .word (ctxOffset k (0x200 + 4 * i.val)) v
/-- `W CTX[k].BUF[i]`. -/
def scriptBuf (k : Task) (i : Fin 128) (v : Half) : Action :=
  .hostWrite .word (ctxOffset k (0x400 + 4 * i.val)) (0#16 ++ v)
/-- `TICK` with no push inside it. -/
def scriptTick : Action := .tick []
/-- `DONE`. -/
def scriptDone : Action := .done
/-- `PUSH v`. -/
def scriptPush (v : Sample) : Action := .push v
/-- `PWR`. -/
def scriptPwr : Action := .power

/-! ### Running a script -/

/-- The actions of a script, one after the other, from `s`. -/
def runScript (as : List Action) (s : State) : Result :=
  match as with
  | [] => .next s
  | a :: rest =>
    match act a s with
    | .next t => runScript rest t
    | .fault r => .fault r
    | .refused r => .refused r

/-! ### Pseudo-actions (rule R109) -/

/-- One `F = v` of a request, a host field of the task's context; `arg` is the whole word of ADDR, DEV and N. -/
inductive FieldWrite where
  | addr (v : BitVec 16)
  | dev (v : BitVec 2)
  | n (v : BitVec 8)
  | arg (addr : BitVec 16) (dev : BitVec 2) (n : BitVec 8)
  | rstart (v : BitVec 32)
  | val (i : Fin 62) (v : Word)
  | dflt (i : Fin 62) (v : Word)
  | buf (i : Fin 128) (v : Half)
  deriving DecidableEq, Repr

/-- The ARG word that a host writes for a field, `v` in the field's bits (rule R108) and the bits of `arg`, the ARG word
it wrote before, in the others; a field of another register leaves it. -/
def FieldWrite.argAfter (f : FieldWrite) (arg : Word) : Word :=
  match f with
  | .addr v => argWordOf v (arg.extractLsb' 16 2) (arg.extractLsb' 24 8)
  | .dev v => argWordOf (arg.extractLsb' 0 16) v (arg.extractLsb' 24 8)
  | .n v => argWordOf (arg.extractLsb' 0 16) (arg.extractLsb' 16 2) v
  | .arg a d m => argWordOf a d m
  | .rstart _ | .val _ _ | .dflt _ _ | .buf _ _ => arg

/-- `W CTX[k].F = v`, where the host wrote `arg` to ARG before. Rule R108 gives no value for the word's other bits; that they
keep the host's earlier ADDR, DEV and N is the model's choice (log entry 21). -/
def scriptWrite (k : Task) (arg : Word) (f : FieldWrite) : Action :=
  match f with
  | .addr _ | .dev _ | .n _ | .arg _ _ _ => .hostWrite .word (ctxOffset k 0x004) (f.argAfter arg)
  | .rstart v => scriptRst k v
  | .val i v => scriptVal k i v
  | .dflt i v => scriptDflt k i v
  | .buf i v => scriptBuf k i v

/-- One `W CTX[k].F = v` per field, in order. -/
def scriptWrites (k : Task) (arg : Word) (fields : List FieldWrite) : List Action :=
  match fields with
  | [] => []
  | f :: rest => scriptWrite k arg f :: scriptWrites k (f.argAfter arg) rest

/-- `REQUEST k {F = v, …}`: the fields' writes, then `SET k`. The bits of ARG that no field of the request gives are written
as 0 (log entry 21), as 95_test_vectors.md writes `W CTX[0].ADDR = 0x1000`. -/
def scriptRequest (k : Task) (fields : List FieldWrite) : List Action := scriptWrites k 0 fields ++ [scriptSet k]

/-- `TICK ×n`. -/
def scriptTicks (n : Nat) : List Action := List.replicate n scriptTick

/-- `WAIT_ACK k` expands, from `s`, to `TICK ×n`: ACK[k] = 1 after `n` ticks and after no fewer. There may be no such `n`
(45_arbiter.md rule R225). Rule R109 says `TICK` repeated until ACK[k] = 1; that this is no tick at all where ACK[k] is
already 1 in `s` is the model's choice (log entry 23). -/
def WaitAck (k : Task) (n : Nat) (s : State) : Prop :=
  (∃ t, runScript (scriptTicks n) s = .next t ∧ bitAt t.ack k = true) ∧
  ∀ m < n, ∀ t, runScript (scriptTicks m) s = .next t → bitAt t.ack k = false

/-- `RELEASE k`. -/
def scriptRelease (k : Task) : List Action := [scriptClr k, scriptTick]

/-- `FAST` after the Flash frame of a tick: a `DONE` before the next `TICK`. -/
def scriptFast : List Action := [scriptTick, scriptDone]

end Sys2Proof.Machine
end

