-- ==== Sys2Proof/Machine/Wire.lean ====
section
/-! DEFINITION. How a frame is clocked (40_transport.md rule R120, 20_memory.md rule R70): opcode and address bytes are
shifted byte-wide, the data phase at DATA_WIDTH of the device, each unit most significant bit first. A frame's meaning
is a function of its bytes alone, so no step reads these definitions. -/

namespace Sys2Proof.Machine

/-- One shift of the transport. -/
inductive Shift where
  | shift8 (b : Byte)
  | shift16 (h : Half)
  deriving DecidableEq, Repr

/-- The bits of a shift in the order they stand on the line, most significant first. -/
def Shift.bits : Shift → List Bool
  | .shift8 b => (List.range 8).map fun i => b.getLsbD (7 - i)
  | .shift16 h => (List.range 16).map fun i => h.getLsbD (15 - i)

/-- The shifts of a data phase. A 16-bit phase whose bytes are odd in number, which no frame of rule R100 but FL_PROTECT and
FL_RDSR has, ends in an 8-bit shift (DESIGN CHOICE, log entry 20). -/
def dataShifts (w : DataWidth) (bytes : List Byte) : List Shift :=
  match w, bytes with
  | _, [] => []
  | .byteWide, b :: rest => .shift8 b :: dataShifts .byteWide rest
  | .wordWide, [b] => [.shift8 b]
  | .wordWide, hi :: lo :: rest => .shift16 (halfOf hi lo) :: dataShifts .wordWide rest

/-- The address bytes nA of a frame (rules R9, R100). -/
def addressBytes (c : Commands) : Instr → Nat
  | .flPp .. | .flSe .. | .flBe .. | .flRead .. => c.flashAddrBytes
  | .frWrite d .. | .frRead d .. => c.addrBytesOf d.dev
  | _ => 0

/-- The shifts the engine makes for the frame of `i` (rule R120): opcode, address, data out. -/
def frameShifts (p : Params) (i : Instr) : List Shift :=
  let f := encodeFrame p.cmds i
  let header := 1 + addressBytes p.cmds i
  dataShifts .byteWide (f.out.take header) ++ dataShifts (p.dataWidth f.dev) (f.out.drop header)

/-- The shifts by which the engine receives the data `bytes` from a device (`receive()`, rule R120). -/
def receiveShifts (p : Params) (d : Dev) (bytes : List Byte) : List Shift := dataShifts (p.dataWidth d) bytes

end Sys2Proof.Machine
end

