-- ==== Sys2Proof/Safety.lean ====
section
/-! DEFINITION. What counts as a safe state: the invariants that claims use, the launch premises (70_reset_and_hazards.md
rule R276), a settled end state (45_arbiter.md rule R227), the fairness premises of a run (60_exceptions.md rule R265), and the shapes of result that several claims share. -/

namespace Sys2Proof.Machine

/-! ### Arrays and ring -/

/-- A Flash operation that stays in its page (rule R71). -/
def FlashOp.inPage (p : Params) : FlashOp → Bool
  | .program a bytes => decide (a.toNat % p.pageBytes = 0) && decide (bytes.length ≤ p.pageBytes)
  | _ => true

/-- The ring's slots in canonical form, each a sample-set of S_W words (rule R45). -/
def Ring.wf (size words : Nat) (r : Ring) : Bool :=
  storeWf (zeroSample words) size r.slots && decide (r.w.toNat < size) && r.slots.all fun p => p.2.length == words

/-- Every store of the machine in its canonical form, and FLASH.OP inside its page. -/
def State.memoryOk (s : State) : Bool :=
  s.flash.array.wf s.cfg.flashBytes && s.fram1.array.wf s.cfg.framBytes1 && s.fram2.array.wf s.cfg.framBytes2
    && s.ring.wf s.cfg.ringN s.cfg.setWords && s.flash.op.all (FlashOp.inPage s.cfg)

/-! ### Position of execution -/

/-- LOCK and the tasks' positions agree (rules R27, R150-R158): the holder is a running task inside a device operation, and
no other task is inside one. -/
def State.LockOk (s : State) : Prop :=
  (s.lockV = true → (s.ctxAt s.lockK).phase = .run ∧ (s.ctxAt s.lockK).fs ≠ .boundary) ∧
  ∀ k, (s.ctxAt k).fs ≠ .boundary → s.lockV = true ∧ s.lockK = k

/-- The operation that task `k` keeps is the one its class's sequence has at its OPI, for the classes whose addresses TASKCFG
fixes (rules R170, R173, R179, R181); the other classes take theirs from the context at the op boundary. -/
def State.SequenceOp (s : State) (k : Task) : Prop :=
  let c := s.ctxAt k
  let row := s.taskCfg k
  let n := 2 * (row.len + 2)
  match row.cls with
  | .rrWrite => ∀ d : FramSel, row.devs = [d.dev] →
      c.op = .fram d (BitVec.ofNat 24
        ((row.addr.toNat + if c.opi = 0 then 0 else s.cfg.rrOffFram) % s.cfg.framBytes d.dev)) n
  | .calWrite => c.op =
      if c.opi = 0 then .se row.packed
      else if c.opi = 1 then .prog row.packed n
      else if c.opi = 2 then .se (row.packed + s.cfg.rrOffFlash)
      else if c.opi = 3 then .prog (row.packed + s.cfg.rrOffFlash) n
      else .protect
  | .calUnlock => c.op = .unlock
  | .capture | .rrRead | .pageWrite | .eraseSector | .eraseBlock | .read | .framWrite | .unassigned => True

/-- A task inside a device operation keeps one, that of its class's sequence (rule R51). -/
def State.OpOk (s : State) : Prop :=
  ∀ k, (s.ctxAt k).fs ≠ .boundary → (s.ctxAt k).op ≠ .none ∧ s.SequenceOp k

/-- An acknowledged task is idle (rule R226 (c)). -/
def State.AckOk (s : State) : Prop := ∀ k, bitAt s.ack k = true → (s.ctxAt k).phase = .idle

/-- BUSY and OP go together (rule R47). -/
def State.FlashOk (s : State) : Prop := s.flash.busy = s.flash.op.isSome

/-- Nothing on the wire and no received data: the transport between ticks (rule R49). -/
def State.TransportIdle (s : State) : Prop := s.port.bus = none ∧ s.port.rx = .none

/-- The Flash is busy only for the LOCK holder's own command, while that task polls (rule R159). -/
def State.FlashHeld (s : State) : Prop :=
  s.flash.busy = true → s.lockV = true ∧ (s.ctxAt s.lockK).fs = .issued

/-- A capture's recorded length (rule R198): whole pages of seven sample-sets, or the whole capture; and the page in flight
carries what rule R194 says. -/
def Ctx.captureOk (c : Ctx) : Prop :=
  (c.count.toNat % 7 = 0 ∨ c.count.toNat = Config.capLen) ∧ c.count.toNat ≤ Config.capLen ∧
  (c.phase = .run → c.count.toNat < Config.capLen) ∧
  (c.phase = .run → c.fs ≠ .boundary → c.opi ≠ 0 → c.pend.toNat = setsInPage c.count)

/-- Every task of class CAPTURE is so (rule R91). -/
def State.CapturesOk (s : State) : Prop := ∀ k, (s.taskCfg k).cls = .capture → (s.ctxAt k).captureOk

/-! ### Launch and end of a run -/

/-- The launch premises of a run (rule R276). -/
def State.Launch (s : State) : Prop :=
  (∀ k, (s.ctxAt k).phase = .idle) ∧ s.lockV = false ∧ s.flash.busy = false ∧ s.flash.op = none ∧
  s.req = 0 ∧ s.ack = 0 ∧ s.sflt = 0 ∧ s.prot = s.flash.bp ∧ s.ring.w = 0 ∧ s.ring.filled = false

/-- A settled end state (rule R227), REQ and ACK all released. -/
def State.Settled (s : State) : Prop :=
  (∀ k, (s.ctxAt k).phase = .idle) ∧ s.lockV = false ∧ s.flash.busy = false ∧ s.req = 0 ∧ s.ack = 0

/-! ### Runs and fairness (rule R265) -/

/-- A run: from `t 0`, the agents take the actions `a 0`, `a 1`, … one after the other. -/
def IsRun (a : Nat → Action) (t : Nat → State) : Prop := ∀ n, act (a n) (t n) = .next (t (n + 1))

/-- The TICK input keeps coming. -/
def TicksKeepComing (a : Nat → Action) : Prop := ∀ n, ∃ m ≥ n, ∃ pushes, a m = .tick pushes

/-- Weak fairness of the Flash agent: it does not stay busy for ever without taking its completion step. -/
def FlashFair (a : Nat → Action) (t : Nat → State) : Prop :=
  ∀ n, (∀ m ≥ n, (t m).flash.busy = true) → ∃ m ≥ n, a m = .done

/-- The premise of every claim that a request is acknowledged in the end: every Flash operation reaches its completion step
after finitely many ticks, and ticks keep coming. No bound is built into the machine. -/
def FairRun (a : Nat → Action) (t : Nat → State) : Prop := IsRun a t ∧ TicksKeepComing a ∧ FlashFair a t

/-! ### Shapes of result -/

/-- The state with one more frame sent and nothing received. -/
def State.sentFrame (s : State) (i : Instr) : State :=
  { s with port := { s.port with sent := s.port.sent ++ [encodeFrame s.cfg.cmds i], rx := .none } }

/-- The state after a status poll: the frame, the status byte received, eight free values taken. -/
def State.afterPoll (s : State) : State :=
  { s with
    port := { s.port with
      sent := s.port.sent ++ [encodeFrame s.cfg.cmds .flRdsr], rx := .status (statusBits s.cfg s.flash.busy s.env.free) }
    env := { s.env with free := s.env.free + 8 } }

/-- The state after a read frame that returned `bytes`. -/
def State.afterRead (s : State) (i : Instr) (bytes : List Byte) : State :=
  { s with port := { s.port with sent := s.port.sent ++ [encodeFrame s.cfg.cmds i], rx := .data bytes } }

/-- The Flash after a program or erase command (rules R123-R125): ignored while busy or without write enable, only WEL
cleared where the target is protected, else busy with the operation. -/
def State.commanded (s : State) (op : FlashOp) : Flash :=
  if s.flash.busy = true ∨ s.flash.wel = false then s.flash
  else if s.flash.bp = true ∧ op.inCal s.cfg = true then { s.flash with wel := false }
  else { s.flash with op := some op, busy := true }

/-- The Flash after a protect or unlock command (rules R126, R127). -/
def State.protection (s : State) (bp : Bool) : Flash :=
  if s.flash.busy = false ∧ s.flash.wel = true then { s.flash with bp := bp, wel := false } else s.flash

/-- The ring after the first `n` groups of pushes that fall inside the tick (rules R199, R229). -/
def State.ringAfter (s : State) (n : Nat) : Ring :=
  (s.env.between.take n).flatten.foldl (fun r v => r.push s.cfg.ringN s.cfg.setWords v) s.ring

/-- The context of task `k` as `Begin` leaves it (rule R218). -/
def State.begun (s : State) (k : Task) : Ctx :=
  { s.ctxAt k with phase := .run, opi := 0, fs := .boundary, polls := 0 }

/-- The bytes of a task's record as they go out (rule R170). -/
def State.recordBytes (s : State) (k : Task) : List Byte :=
  halvesBytes (recordHalves (s.ctxAt k) (s.taskCfg k).len)

/-- The array of a device. -/
def State.arrayOf (s : State) : Dev → Memory
  | .flash => s.flash.array
  | .fram1 => s.fram1.array
  | .fram2 => s.fram2.array

/-- The size of a device's array (rule R9). -/
def State.sizeOf (s : State) (d : Dev) : Nat :=
  match d with
  | .flash => s.cfg.flashBytes
  | .fram1 => s.cfg.framBytes1
  | .fram2 => s.cfg.framBytes2

/-- The first byte of a record's copy in its device (rule R170). -/
def State.copyStart (s : State) (c : TaskCfg) (d : Dev) (second : Bool) : Nat :=
  match d with
  | .flash => (byteAddrOf (flashCopyAddr s.cfg c second)).toNat
  | _ => (framCopyAddr s.cfg c d second).toNat

/-- The words of a record's copy as they stand in its device (rules R104, R170). -/
def State.copyWords (s : State) (c : TaskCfg) (d : Dev) (second : Bool) : List Word :=
  recordOf ((s.arrayOf d).readWrap (s.sizeOf d) (s.copyStart c d second) (4 * (c.len + 2)))

/-- A step's result with the end of the tick added, where it is a next state. -/
def afterTick (r : Result) : Result :=
  match r with
  | .next t => .next (endTick t)
  | .fault x => .fault x
  | .refused x => .refused x

end Sys2Proof.Machine
end

