-- ==== Sys2Proof/Certificates/Slice0/Obligations.lean ====
section
/-! DEFINITION. The statements for the provers. Each docstring names the rules of spec/ that the statement rests on. A
statement that gives the whole next state as a record update is its own frame: every field it does not name keeps its
value, each byte of each device array among them. -/

open Sys2Proof Sys2Proof.Machine

/-! ### Encoding -/

/-- Rules R90, R97-R103: for every well-formed instruction, with every operand at every value its encoding admits, for every
set of command bytes in which the commands of one device differ and every count of address bytes that carries its address,
decoding what the encoder writes gives the instruction back. Three address bytes carry every address, and two every FRAM
address below 2^16. -/
def Obligations.DecodeInvertsEncode : Prop :=
  ∀ (c : Commands) (i : Instr), c.distinct = true → i.WellFormed →
    (i.addressFits c = true → decode c (encode c i) = .ok i) ∧
    (3 ≤ c.flashAddrBytes →
      (∀ (d : FramSel) (a : FramAddr), ((∃ bytes, i = .frWrite d a bytes) ∨ ∃ n, i = .frRead d a n) →
        3 ≤ c.addrBytesOf d.dev ∨ 2 ≤ c.addrBytesOf d.dev ∧ a.toNat < 65536) →
      i.addressFits c = true)

/-- Rules R99-R101: a frame that the device understands is well formed and is, byte for byte, the encoding of what it is
read as, so no byte of a frame is dropped, whatever the command bytes are. -/
def Obligations.EncodeInvertsDecodeFrame : Prop :=
  ∀ (c : Commands) (f : Frame) (i : Instr), decodeFrame c f = .ok i → i.WellFormed ∧ encodeFrame c i = f

/-- Rules R93, R97, R100, R120, R132: words written out from the spec's encodings, at the default command bytes, decode to
what they stand for. -/
def Obligations.SpecWordsDecode : Prop :=
  ∀ c : Commands, c = Config.commands →
    decode c (.frame ⟨.flash, [0x06], 0⟩) = .ok .flWren ∧
    decode c (.frame ⟨.flash, [0x02, 0x12, 0x34, 0x00, 0xAB, 0xCD, 0x01, 0x02], 0⟩) = .ok (.flPp 0x1234 [0xABCD, 0x0102]) ∧
    decode c (.frame ⟨.flash, [0xD8, 0x12, 0x00, 0x00], 0⟩) = .ok (.flBe 0x1200) ∧
    decode c (.frame ⟨.fram1, [0x02, 0x01, 0x00, 0x00, 0x00, 0x00, 0x05], 0⟩) =
      .ok (.frWrite .fram1 0x0100 [0, 0, 0, 5]) ∧
    decode c (.frame ⟨.fram2, [0x03, 0x40, 0x00], 16⟩) = .ok (.frRead .fram2 0x4000 16) ∧
    decode c (.request 0x00000008) = .ok .req3EidWrite ∧
    decode c (.request 0x02080000) = .ok .req19FramRead

/-! ### The step -/

/-- Rules R91, R108, R210, R219: where the request word that the tick selects decodes to `i`, the step is `exec i` after steps
1-4 of the tick, with the end of the tick added; any other action of the script is that action's own effect. The order
of a step's parts is the model's (log entry 6). -/
def Obligations.TickRunsDecodedInstruction : Prop :=
  ∀ s : State, s.port.bus = none →
    (∀ i, s.env.inputs = [] → decode s.cfg.cmds (.request (selectedWord (arbitrate s))) = .ok i →
      step s = afterTick (exec i (arbitrate s))) ∧
    (∀ i between rest, s.env.inputs = .tick between :: rest →
      ∀ s', s' = { s with env := { s.env with inputs := rest, between := between } } →
      decode s.cfg.cmds (.request (selectedWord (arbitrate s'))) = .ok i →
      step s = afterTick (exec i (arbitrate s'))) ∧
    (∀ a rest, s.env.inputs = a :: rest → step s = act a { s with env := { s.env with inputs := rest } })

/-- Rule R213: the tick serves the LOCK holder; with LOCK free, the pending and unacknowledged task of smallest index;
and with no such task it ends after its steps 1-4. -/
def Obligations.TickServesLockHolderElseScan : Prop :=
  ∀ s : State,
    ((arbitrate s).lockV = true →
      tick s = afterTick (exec (requestInstrs.get (arbitrate s).lockK) (arbitrate s))) ∧
    (∀ k, (arbitrate s).lockV = false → isPending (arbitrate s) k = true →
      (∀ j, j < k → isPending (arbitrate s) j = false) →
      tick s = afterTick (exec (requestInstrs.get k) (arbitrate s))) ∧
    ((arbitrate s).lockV = false → (∀ k, isPending (arbitrate s) k = false) → tick s = .next (endTick (arbitrate s)))

/-- Rules R101, R120, R129: a frame on the wire is run as the instruction that its device decodes; one the device does not
understand, and an instruction that is no frame of rule R100, change no device and no engine state. Rule R129 says so
of a Flash opcode outside rule R100; that the same holds of an FRAM frame, of a third address byte that is not 0x00, of
an odd number of data bytes and of a length outside rule R100 is the model's choice (log entry 7). -/
def Obligations.WireFrameRunsOrIsIgnored : Prop :=
  (∀ (s : State) (f : Frame), s.port.bus = some f →
    (∀ i, decode s.cfg.cmds (.frame f) = .ok i → step s = exec i { s with port := { s.port with bus := none } }) ∧
    (∀ e, decode s.cfg.cmds (.frame f) = .error e →
      ∃ t, step s = .next t ∧
        t = { s with port := { s.port with bus := none, rx := t.port.rx }, env := { s.env with free := t.env.free } })) ∧
  (∀ (s : State) (i : Instr), ¬i.WellFormed →
    ∃ t, exec i s = .next t ∧
      t = { s with port := { s.port with rx := t.port.rx }, env := { s.env with free := t.env.free } })

/-- Rule R227: a tick with P empty and LOCK_V = 0 sends no frame and is steps 1-4 alone; a second one in a row changes
nothing at all. -/
def Obligations.IdleTickSettles : Prop :=
  ∀ s : State, s.port.bus = none → s.env.inputs = [] → s.env.between = [] → s.lockV = false →
    (∀ k, isPending (arbitrate s) k = false) →
    step s = .next (arbitrate s) ∧ (arbitrate s).port.sent = [] ∧ step (arbitrate s) = .next (arbitrate s)

/-- Rules R49, R134, R222: every tick answers a next state, in which the engine has sent at most one frame and the
transport holds neither a frame nor received data. -/
def Obligations.TickSendsAtMostOneFrame : Prop :=
  ∀ s : State, ∃ t, tick s = .next t ∧ t.port.sent.length ≤ 1 ∧ t.port.rx = .none ∧ t.port.bus = s.port.bus

/-! ### Device frames -/

/-- Rules R121, R131: write enable sets the latch of its device alone; the Flash ignores it while busy. -/
def Obligations.WriteEnableSetsLatch : Prop :=
  (∀ s : State, exec .flWren s = .next { s with
    flash := { s.flash with wel := s.flash.wel || !s.flash.busy }, port := { s.port with rx := .none } }) ∧
  (∀ s : State, exec (.frWren .fram1) s =
    .next { s with fram1 := { s.fram1 with wel := true }, port := { s.port with rx := .none } }) ∧
  (∀ s : State, exec (.frWren .fram2) s =
    .next { s with fram2 := { s.fram2 with wel := true }, port := { s.port with rx := .none } })

/-- Rules R102, R122: the status byte's bit BUSY_BIT is FLASH.BUSY and no state but the transport's changes; the other bits
are left free (the count of free values is the model's own). -/
def Obligations.StatusReadShowsBusy : Prop :=
  ∀ s : State, ∃ t bits, exec .flRdsr s = .next t ∧ bits.get s.cfg.busyBit = s.flash.busy ∧
    t = { s with port := { s.port with rx := .status bits }, env := { s.env with free := t.env.free } }

/-- Rules R61, R66, R75, R123-R125: a program or erase command is ignored by a busy or un-enabled Flash, only clears WEL
where BP = 1 and its target is protected, and otherwise makes the Flash busy with it; the array does not change yet.
The target is protected exactly where a region of kind CAL holds the page's sector, the erased sector, or one of the
BLOCK_SECTORS sectors of the erased block. -/
def Obligations.FlashCommandsStartOperation : Prop :=
  ∀ (i : Instr) (op : FlashOp) (first count : Nat) (hit : Bool) (s : State), i.WellFormed →
    ((∃ p words, i = .flPp p words ∧ op = .program (p ++ 0#8) (halvesBytes words) ∧
        first = (p.extractLsb' 4 12).toNat ∧ count = 1) ∨
     (∃ p, i = .flSe p ∧ op = .eraseSector (p.extractLsb' 4 12) ∧ first = (p.extractLsb' 4 12).toNat ∧ count = 1) ∨
     (∃ p blk, i = .flBe p ∧ blk = BitVec.ofNat 12 ((p.extractLsb' 4 12).toNat / s.cfg.blockSectors) ∧
        op = .eraseBlock blk ∧ first = blk.toNat * s.cfg.blockSectors ∧ count = s.cfg.blockSectors)) →
    (hit = true ↔ ∃ r ∈ s.cfg.regions, r.kind = .cal ∧
      ∃ sector, first ≤ sector ∧ sector < first + count ∧ r.first ≤ sector ∧ sector ≤ r.last) →
    exec i s = .next { s with
      port := { s.port with rx := .none }
      flash :=
        if s.flash.busy = true ∨ s.flash.wel = false then s.flash
        else if s.flash.bp = true ∧ hit = true then { s.flash with wel := false }
        else { s.flash with op := some op, busy := true } }

/-- Rules R126, R127: unlock and protect write BP and clear WEL on an idle, enabled Flash, and do nothing otherwise; the
device does not become busy. -/
def Obligations.ProtectionFramesWriteBp : Prop :=
  ∀ (i : Instr) (bp : Bool) (s : State), (i = .flUlbpr ∧ bp = false ∨ ∃ data, i = .flProtect data ∧ bp = true) →
    exec i s = .next { s with port := { s.port with rx := .none }, flash := s.protection bp }

/-- Rules R47, R72, R128: a read of an idle Flash returns the `2n` bytes from `a` on, modulo the bytes of its FLASH_SECTORS
sectors of 4096, which are 2^24 where the parameters meet rule R9, with no side effect; of a busy Flash, `2n` bytes of
any value and no effect. -/
def Obligations.FlashReadReturnsArray : Prop :=
  ∀ (a : FlashAddr) (n : Nat) (s : State), 1 ≤ n → n ≤ 128 →
    ∃ bytes free, exec (.flRead a n) s = .next { s with
        port := { s.port with rx := .data bytes }, env := { s.env with free := free } } ∧
      bytes.length = 2 * n ∧
      (s.flash.busy = false → free = s.env.free ∧
        ∀ i (h : i < bytes.length), bytes[i] = s.flash.array.read ((a.toNat + i) % (s.cfg.flashSectors * 4096))) ∧
      (s.cfg.Ok → s.cfg.flashSectors * 4096 = 16777216)

/-- Rules R77, R132: a write to a write-enabled FRAM stores each byte at its address modulo FRAM_BYTES (the last of two that
fall on one byte), leaves every other byte of every device alone and clears WEL; without write enable it changes
nothing. -/
def Obligations.FramWriteStoresBytes : Prop :=
  ∀ (d : FramSel) (a : FramAddr) (bytes : List Byte) (s : State), 1 ≤ bytes.length → bytes.length ≤ 256 →
    ∃ m, exec (.frWrite d a bytes) s =
        .next (({ s with port := { s.port with rx := .none } } : State).setFram d ⟨m, false⟩) ∧
      ((s.fram d).wel = false → m = (s.fram d).array) ∧
      ((s.fram d).wel = true →
        (∀ i (h : i < bytes.length),
          (∀ j, i < j → j < bytes.length →
            (a.toNat + j) % s.cfg.framBytes d.dev ≠ (a.toNat + i) % s.cfg.framBytes d.dev) →
          m.read ((a.toNat + i) % s.cfg.framBytes d.dev) = bytes[i]) ∧
        (∀ x, (∀ i < bytes.length, (a.toNat + i) % s.cfg.framBytes d.dev ≠ x) → m.read x = (s.fram d).array.read x))

/-- Rules R76, R133: an FRAM read returns the bytes it addresses, modulo FRAM_BYTES, and no state changes. -/
def Obligations.FramReadReturnsArray : Prop :=
  ∀ (d : FramSel) (a : FramAddr) (n : Nat) (s : State), 1 ≤ n → n ≤ 256 →
    ∃ bytes, exec (.frRead d a n) s = .next { s with port := { s.port with rx := .data bytes } } ∧ bytes.length = n ∧
      ∀ i (h : i < bytes.length), bytes[i] = (s.fram d).array.read ((a.toNat + i) % s.cfg.framBytes d.dev)

/-! ### Flash completion and power loss -/

/-- Rules R73, R74, R79: the completion step of a busy Flash applies its operation to the array, byte by byte as the rules
say (a block being BLOCK_SECTORS sectors of 4096 bytes), leaves every other byte alone and makes the device idle with
WEL clear; nothing else of the state changes. -/
def Obligations.CompletionAppliesOperation : Prop :=
  ∀ (s : State) (op : FlashOp) (rest : List Action), s.port.bus = none → s.env.inputs = .done :: rest →
    s.flash.busy = true → s.flash.op = some op →
    ∃ m, step s = .next { s with
        flash := ⟨m, false, false, none, s.flash.bp⟩, env := { s.env with inputs := rest } } ∧
      match op with
      | .program a bytes =>
        (∀ i (h : i < bytes.length), m.read (a.toNat + i) =
          match s.cfg.progMode with
          | .and => s.flash.array.read (a.toNat + i) &&& bytes[i]
          | .overwrite => bytes[i]) ∧
        ∀ x, ¬(a.toNat ≤ x ∧ x < a.toNat + bytes.length) → m.read x = s.flash.array.read x
      | .eraseSector sec =>
        ∀ x, m.read x = if sec.toNat * 4096 ≤ x ∧ x < sec.toNat * 4096 + 4096 then 0xFF else s.flash.array.read x
      | .eraseBlock blk =>
        ∀ x, m.read x =
          if blk.toNat * (s.cfg.blockSectors * 4096) ≤ x ∧
              x < blk.toNat * (s.cfg.blockSectors * 4096) + s.cfg.blockSectors * 4096 then 0xFF
          else s.flash.array.read x

/-- Rules R88, R258, R270: a power loss between frames changes no array byte but those of the target of a busy Flash's
operation; every other piece of state takes its reset value. That a field or ring slot whose reset value rule R270
leaves unspecified becomes zero is the model's choice (log entry 1); that the inputs that follow and the count of free
values stay is too (log entry 16). -/
def Obligations.PowerLossKeepsArrays : Prop :=
  ∀ (s : State) (rest : List Action), s.port.bus = none → s.env.inputs = .power :: rest →
    ∃ m free, step s = .next { State.powerUp s.cfg m s.fram1.array s.fram2.array with env := ⟨rest, [], 0, free⟩ } ∧
      (s.flash.busy = false → m = s.flash.array) ∧
      (∀ op, s.flash.op = some op →
        ∀ x, (∀ i < (op.target s.cfg).2, ((op.target s.cfg).1 + i) % s.cfg.flashBytes ≠ x) →
          m.read x = s.flash.array.read x)

/-- Rules R88, R258: a power loss inside the frame of a tick changes no array byte but those that a writing frame of the tick
addresses and those of the target of a busy Flash's operation; every other piece of state takes its reset value. That a
frame the device would ignore counts as a writing frame is the model's choice (log entry 8), and so are the zero that
an unspecified field takes (log entry 1) and the inputs and the count that stay (log entry 16). -/
def Obligations.PowerLossInsideFrame : Prop :=
  ∀ (s u : State) (rest : List Action), s.port.bus = none → s.env.inputs = .powerInFrame :: rest →
    tick { s with env := { s.env with inputs := rest } } = .next u →
    ∃ m m1 m2 free, step s = .next { State.powerUp s.cfg m m1 m2 with env := ⟨rest, [], 0, free⟩ } ∧
      (∀ x,
        (∀ op, s.flash.busy = true → s.flash.op = some op →
          ∀ i < (op.target s.cfg).2, ((op.target s.cfg).1 + i) % s.cfg.flashBytes ≠ x) →
        (∀ f ∈ u.port.sent, ∀ i op, decodeFrame s.cfg.cmds f = .ok i → flashTarget s.cfg i = some op →
          ∀ j < (op.target s.cfg).2, ((op.target s.cfg).1 + j) % s.cfg.flashBytes ≠ x) →
        m.read x = s.flash.array.read x) ∧
      (∀ x,
        (∀ f ∈ u.port.sent, ∀ a bytes, decodeFrame s.cfg.cmds f = .ok (.frWrite .fram1 a bytes) →
          ∀ j < bytes.length, (a.toNat + j) % s.cfg.framBytes1 ≠ x) →
        m1.read x = s.fram1.array.read x) ∧
      (∀ x,
        (∀ f ∈ u.port.sent, ∀ a bytes, decodeFrame s.cfg.cmds f = .ok (.frWrite .fram2 a bytes) →
          ∀ j < bytes.length, (a.toNat + j) % s.cfg.framBytes2 ≠ x) →
        m2.read x = s.fram2.array.read x)

/-! ### Checksum codec -/

/-- Rule R144: what `Valid` rejects and what passes it: erased and all-zero records and every single-bit flip are
rejected; two opposite flips of one bit, bit 31 set in two words, and any reordering of the payload pass. -/
def Obligations.RecordErrorDetection : Prop :=
  (∀ len, validRecord (List.replicate (len + 2) 0xFFFFFFFF) len = false) ∧
  (∀ len, validRecord (List.replicate (len + 2) 0) len = false) ∧
  (∀ (p : List Word) (i : Nat) (b : Fin 32), i < p.length + 2 →
    validRecord ((encodeRecord p).set i ((encodeRecord p).getD i 0 ^^^ requestWord b)) p.length = false) ∧
  (∀ (p : List Word) (i j : Nat) (b : Fin 32) (hi : i < p.length) (hj : j < p.length), i ≠ j →
    p[i].getLsbD b = true → p[j].getLsbD b = false →
    validRecord (((encodeRecord p).set i (p[i] ^^^ requestWord b)).set j (p[j] ^^^ requestWord b)) p.length = true) ∧
  (∀ (p : List Word) (i j : Nat) (hi : i < p.length) (hj : j < p.length), i ≠ j →
    p[i].getLsbD 31 = false → p[j].getLsbD 31 = false →
    validRecord (((encodeRecord p).set i (p[i] ^^^ 0x80000000)).set j (p[j] ^^^ 0x80000000)) p.length = true) ∧
  (∀ p q : List Word, q.Perm p → validRecord (q ++ [checksum p, complement (checksum p)]) q.length = true)

/-- Rules R104, R142, R143, R170: a record is its payload, its sum modulo 2^32 and the complement, it is valid, and its bytes
are big-endian: word `i` stands in bytes `4i..4i+3`, most significant byte first; decoding the bytes gives the words. -/
def Obligations.RecordBytesBigEndian : Prop :=
  ∀ (c : Ctx) (len : Nat), 1 ≤ len → len ≤ 62 →
    encodeRecord (c.payload len) =
      c.payload len ++ [(c.payload len).foldl (· + ·) 0, ~~~((c.payload len).foldl (· + ·) 0)] ∧
    validRecord (encodeRecord (c.payload len)) len = true ∧
    (halvesBytes (recordHalves c len)).length = 4 * (len + 2) ∧
    recordOf (halvesBytes (recordHalves c len)) = encodeRecord (c.payload len) ∧
    ∀ i (h : i < (encodeRecord (c.payload len)).length) (j : Fin 4),
      (halvesBytes (recordHalves c len)).getD (4 * i + j.val) 0 =
        (encodeRecord (c.payload len))[i].extractLsb' (24 - 8 * j.val) 8

/-! ### The arbiter -/

/-- Rules R211, R216: the release clears exactly the ACK bits whose REQ bit is 0; the withdrawal ends exactly the tasks that
have begun, whose REQ bit is 0 and that do not hold LOCK; nothing else of the state changes in either. -/
def Obligations.ReleaseAndWithdrawAll : Prop :=
  ∀ s : State,
    (∃ ack, release s = { s with ack := ack } ∧ ∀ k, bitAt ack k = (bitAt s.ack k && bitAt s.req k)) ∧
    (∃ ctx, withdrawAll s = { s with ctx := ctx } ∧
      ∀ k : Task, ctx.get k =
        if bitAt s.req k = false ∧ (s.ctxAt k).phase ≠ .idle ∧ ¬(s.lockV = true ∧ s.lockK = k) then
          { s.ctxAt k with
            status := if (s.ctxAt k).phase = .run then .withdrawn else (s.ctxAt k).status
            abort := false, pend := 0, opi := 0, fs := .boundary, phase := .idle }
        else s.ctxAt k)

/-- Rules R94, R212: the superseded tasks are the captures with a capture of smaller index that is pending, unacknowledged and
not begun, while they are themselves pending, unacknowledged and not finished. Each loses its request; the LOCK holder
gets ABORT, any other is retired at once. Every other task and every other piece of state is unchanged. That a lower
capture whose request is already clear in the snapshot is not superseded, as the formula of rule R212 has it, where
rules R228 and R253 (5) can be read otherwise, is the model's choice (log entry 19). -/
def Obligations.SupersedeRule : Prop :=
  ∀ s : State, ∃ req ctx, supersede s = { s with req := req, ctx := ctx } ∧
    ∀ lo : Task, ∀ S : Bool,
      (S = true ↔ (s.taskCfg lo).cls = .capture ∧ ∃ hi : Task, hi < lo ∧ (s.taskCfg hi).cls = .capture ∧
        bitAt s.req hi = true ∧ bitAt s.ack hi = false ∧ (s.ctxAt hi).phase = .idle ∧
        bitAt s.req lo = true ∧ bitAt s.ack lo = false ∧ (s.ctxAt lo).phase ≠ .finish) →
      bitAt req lo = (bitAt s.req lo && !S) ∧
      ctx.get lo =
        if S = true then
          (if s.lockV = true ∧ s.lockK = lo then { s.ctxAt lo with abort := true }
           else { s.ctxAt lo with
             count := if (s.ctxAt lo).phase = .idle then 0 else (s.ctxAt lo).count
             status := .aborted, abort := false, pend := 0, opi := 0, fs := .boundary, phase := .idle })
        else s.ctxAt lo

/-- Rule R226: over a tick the engine sets ACK[k] only where the snapshot has R[k] = 1, clears it exactly where the snapshot
has R[k] = 0, keeps ACK[k] = 1 only for idle tasks, does not begin an acknowledged task, and writes REQ only to clear
bits of captures. -/
def Obligations.AcknowledgeDiscipline : Prop :=
  ∀ s t : State, s.LockOk → s.AckOk → tick s = .next t → ∀ k,
    (bitAt s.ack k = false → bitAt t.ack k = true → bitAt s.req k = true) ∧
    (bitAt s.ack k = true → bitAt t.ack k = bitAt s.req k) ∧
    (bitAt t.ack k = true → (t.ctxAt k).phase = .idle) ∧
    (bitAt s.ack k = true → (t.ctxAt k).phase = .idle) ∧
    (bitAt t.req k = true → bitAt s.req k = true) ∧
    (bitAt s.req k = true → bitAt t.req k = false → (s.taskCfg k).cls = .capture)

/-- Rule R223: while a task is pending after steps 1-4 of a tick, the tick acknowledges no task of larger index and begins
none. -/
def Obligations.PriorityOrder : Prop :=
  ∀ (s t : State) (i j : Task), s.LockOk → tick s = .next t → i < j → isPending (arbitrate s) i = true →
    (bitAt s.ack j = false → bitAt t.ack j = false) ∧
    ((s.ctxAt j).phase = .idle → (t.ctxAt j).phase = .idle)

/-! ### Ending a task -/

/-- Rule R214: `Finish(st)`: the task's end fields are cleared and STATUS is st; as the scan choice it is acknowledged and
idle, with its request still set it waits in FINISH, else it is idle without acknowledge; nothing else changes. -/
def Obligations.FinishRule : Prop :=
  ∀ (k : Task) (st : Status) (s : State),
    finish k st s = { s with
      ack := if s.scan = some k then s.ack ||| requestWord k else s.ack
      ctx := s.ctx.set k.val
        { s.ctxAt k with
          status := st, abort := false, pend := 0, opi := 0, fs := .boundary
          phase := if s.scan = some k then .idle else if bitAt s.req k = true then .finish else .idle } }

/-- Rules R215, R216: `Retire` ends a capture ABORTED at its COUNT (0 where it had not begun), clears its request and sets no
acknowledge; `Withdraw` ends a running task WITHDRAWN and leaves a finished task's status; nothing else changes. -/
def Obligations.RetireAndWithdrawRules : Prop :=
  ∀ (k : Task) (s : State),
    retire k s = { s with
      req := s.req &&& ~~~(requestWord k)
      ctx := s.ctx.set k.val
        { s.ctxAt k with
          count := if (s.ctxAt k).phase = .idle then 0 else (s.ctxAt k).count
          status := .aborted, abort := false, pend := 0, opi := 0, fs := .boundary, phase := .idle } } ∧
    withdraw k s = { s with
      ctx := s.ctx.set k.val
        { s.ctxAt k with
          status := if (s.ctxAt k).phase = .run then .withdrawn else (s.ctxAt k).status
          abort := false, pend := 0, opi := 0, fs := .boundary, phase := .idle } }

/-- Rule R220: the slice of any task with PHASE = FINISH sets its ACK bit, makes it idle and changes nothing else. -/
def Obligations.FinishedTaskIsAcknowledged : Prop :=
  ∀ (k : Task) (s : State), (s.ctxAt k).phase = .finish →
    exec (requestInstrs.get k) s = .next { s with
      ack := s.ack ||| requestWord k
      ctx := s.ctx.set k.val { s.ctxAt k with phase := .idle } }

/-! ### Beginning a task -/

/-- Rules R150, R156, R157, R179, R181, R218, R231, R232: the first slice of an erase, page-write, calibration-write or unlock
task that passes its begin check and its PROT check sends FL_WREN, takes LOCK and stands at FS = 1 with POLLS = 0; nothing
else changes. The operation's kind and address are fixed here; that N is kept with them is the model's choice (log
entry 18). -/
def Obligations.FlashTasksBegin : Prop :=
  ∀ (k : Task) (op : DeviceOp) (s : State), (s.ctxAt k).phase = .idle →
    ((s.taskCfg k).cls = .eraseSector ∧ op = .se (s.ctxAt k).addr ∨
     (s.taskCfg k).cls = .eraseBlock ∧ op = .be (s.ctxAt k).addr ∨
     (s.taskCfg k).cls = .pageWrite ∧ op = .prog (s.ctxAt k).addr (s.ctxAt k).n.toNat ∧
       1 ≤ (s.ctxAt k).n.toNat ∧ (s.ctxAt k).n.toNat ≤ 128 ∨
     (s.taskCfg k).cls = .calUnlock ∧ op = .unlock ∨
     (s.taskCfg k).cls = .calWrite ∧ op = .se (s.taskCfg k).packed ∧ (s.taskCfg k).devs = [.flash] ∧
       1 ≤ (s.taskCfg k).len ∧ (s.taskCfg k).len ≤ s.cfg.lMax ∧ s.prot = false) →
    exec (requestInstrs.get k) s = .next { s.sentFrame .flWren with
      flash := { s.flash with wel := s.flash.wel || !s.flash.busy }
      lockV := true
      lockK := k
      ctx := s.ctx.set k.val { s.begun k with fs := .enabled, op := op } }

/-- Rules R158, R170, R172, R173, R218, R230, R234: the first slice of an FRAM writing task that passes its begin check sends
FR_WREN to its device and takes LOCK; nothing else changes. The device and the address, the record's A mod FRAM_BYTES or
the context's ADDR mod FRAM_BYTES, are those of the write operation that begins; that they and N are kept until its write
slice is the model's choice (log entry 18). -/
def Obligations.FramTasksBegin : Prop :=
  ∀ (k : Task) (d : FramSel) (a : FramAddr) (n : Nat) (s : State), (s.ctxAt k).phase = .idle →
    ((s.taskCfg k).cls = .rrWrite ∧ (s.taskCfg k).devs = [d.dev] ∧
       1 ≤ (s.taskCfg k).len ∧ (s.taskCfg k).len ≤ s.cfg.lMax ∧
       a = BitVec.ofNat 24 ((s.taskCfg k).addr.toNat % s.cfg.framBytes d.dev) ∧ n = 2 * ((s.taskCfg k).len + 2) ∨
     (s.taskCfg k).cls = .framWrite ∧ devOfSelector (s.ctxAt k).dev = some d.dev ∧ d.dev ∈ (s.taskCfg k).devs ∧
       1 ≤ (s.ctxAt k).n.toNat ∧ (s.ctxAt k).n.toNat ≤ 128 ∧
       a = BitVec.ofNat 24 ((s.ctxAt k).addr.toNat % s.cfg.framBytes d.dev) ∧ n = (s.ctxAt k).n.toNat) →
    exec (requestInstrs.get k) s = .next (({ s.sentFrame (.frWren d) with
      lockV := true
      lockK := k
      ctx := s.ctx.set k.val { s.begun k with fs := .enabled, op := .fram d a n } } : State).setFram d
        { s.fram d with wel := true })

/-- Rules R98, R107, R172, R174, R178, R230: the first slice of a task with an operand that its begin check refuses sends no
frame and ends INVALID_PARAM; a record read has set SRC = 3 before. That a READ whose device set has one member, such as
task 18, checks its selector too is the model's reading of rules R93 and R230 (log entry 12), and that a record's row must
name exactly one device is the model's reading (log entry 14). -/
def Obligations.InvalidParameterEnds : Prop :=
  ∀ (k : Task) (cls : OpClass) (s : State), (s.taskCfg k).cls = cls →
    (cls ∈ [OpClass.pageWrite, .read, .framWrite] ∧ ¬(1 ≤ (s.ctxAt k).n.toNat ∧ (s.ctxAt k).n.toNat ≤ 128) ∨
     cls = .read ∧ (∀ d, devOfSelector (s.ctxAt k).dev = some d → d ∉ (s.taskCfg k).devs) ∨
     cls = .framWrite ∧ (∀ d, devOfSelector (s.ctxAt k).dev = some d → d ∉ (s.taskCfg k).devs ∨ d = .flash) ∨
     cls ∈ [OpClass.rrWrite, .rrRead, .calWrite] ∧ ¬(1 ≤ (s.taskCfg k).len ∧ (s.taskCfg k).len ≤ s.cfg.lMax) ∨
     cls = .rrWrite ∧ (∀ d, (s.taskCfg k).devs = [d] → d = .flash) ∨
     cls = .rrRead ∧ (∀ d, (s.taskCfg k).devs ≠ [d]) ∨
     cls = .calWrite ∧ (s.taskCfg k).devs ≠ [.flash]) →
    (s.ctxAt k).phase = .idle →
    exec (requestInstrs.get k) s = .next (finish k .invalidParam { s with
      ctx := s.ctx.set k.val { s.begun k with src := if cls = .rrRead then .noRead else (s.ctxAt k).src } })

/-- Rule R221: an unassigned bit, served as the scan choice, ends INVALID_PARAM and acknowledged in its first slice, with no
frame and no other effect. -/
def Obligations.UnassignedBitEndsInvalid : Prop :=
  ∀ (k : Task) (s : State), (s.taskCfg k).cls = .unassigned → (s.ctxAt k).phase = .idle → s.scan = some k →
    exec (requestInstrs.get k) s = .next { s with
      ack := s.ack ||| requestWord k
      ctx := s.ctx.set k.val
        { s.ctxAt k with
          status := .invalidParam, phase := .idle, opi := 0, fs := .boundary, polls := 0, abort := false, pend := 0 } }

/-! ### Device operations of the request classes -/

/-- Rules R123-R125, R151, R231, R232, R242: the command slice sends the frame of the operation that the op boundary fixed: an
erase of whatever class, or the program of a page-write task, whose words are BUF as it stands in this slice. The Flash
responds as to any such command, and the task stands at FS = 2, still holding LOCK. That the number of these words is
the N kept at the op boundary, and not CTX[k].N as it stands in this slice, is the model's choice (log entry 18). -/
def Obligations.FlashCommandSlice : Prop :=
  ∀ (frame : Instr) (op : FlashOp) (k : Task) (s : State) (p : Packed),
    ((s.ctxAt k).op = .se p ∧ frame = .flSe p ∧ op = .eraseSector (p.extractLsb' 4 12) ∨
     (s.ctxAt k).op = .be p ∧ frame = .flBe p ∧
       op = .eraseBlock (BitVec.ofNat 12 ((p.extractLsb' 4 12).toNat / s.cfg.blockSectors)) ∨
     ∃ n words, (s.ctxAt k).op = .prog p n ∧ (s.taskCfg k).cls = .pageWrite ∧ 1 ≤ n ∧ n ≤ 128 ∧
       words = (s.ctxAt k).buf.toList.take n ∧ frame = .flPp p words ∧
       op = .program (p ++ 0#8) (halvesBytes words)) →
    (s.ctxAt k).phase = .run → (s.ctxAt k).fs = .enabled →
    exec (requestInstrs.get k) s = .next { s.sentFrame frame with
      flash := s.commanded op
      ctx := s.ctx.set k.val { s.ctxAt k with fs := .issued } }

/-- Rules R151, R170, R179: the command slice of a calibration write sends the erase or the program of the copy its OPI
names, at A or at (A + RR_OFF_FLASH) mod 2^16, with the record computed from VAL in this slice. -/
def Obligations.CalibrationCommandSlice : Prop :=
  ∀ (frame : Instr) (op : FlashOp) (k : Task) (s : State) (p : Packed), s.OpOk →
    (s.taskCfg k).cls = .calWrite → (s.ctxAt k).opi.toNat < 4 → 1 ≤ (s.taskCfg k).len → (s.taskCfg k).len ≤ 62 →
    p = (if (s.ctxAt k).opi.toNat < 2 then (s.taskCfg k).packed else (s.taskCfg k).packed + s.cfg.rrOffFlash) →
    (frame, op) = (if (s.ctxAt k).opi.toNat % 2 = 0 then (.flSe p, .eraseSector (p.extractLsb' 4 12))
      else (.flPp p (recordHalves (s.ctxAt k) (s.taskCfg k).len), .program (p ++ 0#8) (s.recordBytes k))) →
    (s.ctxAt k).phase = .run → (s.ctxAt k).fs = .enabled →
    exec (requestInstrs.get k) s = .next { s.sentFrame frame with
      flash := s.commanded op
      ctx := s.ctx.set k.val { s.ctxAt k with fs := .issued } }

/-- Rules R156, R157, R170, R173, R179, R180: a record write after its primary copy, and a calibration write after each of its
first four operations, starts the next operation of its sequence at its next slice: write enable, LOCK taken; for the
calibration write's erases and programs only while PROT = 0. That an OPI of 2..15 of a record write, which rule R51 rules
out, starts the secondary copy, is the model's choice (log entry 15). -/
def Obligations.RecordTasksContinue : Prop :=
  ∀ (k : Task) (s : State) (op : DeviceOp), (s.ctxAt k).phase = .run → (s.ctxAt k).fs = .boundary →
    ((s.taskCfg k).cls = .calWrite →
      ((s.ctxAt k).opi, op) ∈ [((0 : BitVec 4), DeviceOp.se (s.taskCfg k).packed),
        (1, .prog (s.taskCfg k).packed (2 * ((s.taskCfg k).len + 2))),
        (2, .se ((s.taskCfg k).packed + s.cfg.rrOffFlash)),
        (3, .prog ((s.taskCfg k).packed + s.cfg.rrOffFlash) (2 * ((s.taskCfg k).len + 2))), (4, .protect)] →
      ((s.ctxAt k).opi ≠ 4 → s.prot = false) →
      exec (requestInstrs.get k) s = .next { s.sentFrame .flWren with
        flash := { s.flash with wel := s.flash.wel || !s.flash.busy }
        lockV := true
        lockK := k
        ctx := s.ctx.set k.val { s.ctxAt k with fs := .enabled, polls := 0, op := op } }) ∧
    (∀ d : FramSel, (s.taskCfg k).cls = .rrWrite → (s.taskCfg k).devs = [d.dev] →
      op = .fram d (BitVec.ofNat 24
        (((s.taskCfg k).addr.toNat + if (s.ctxAt k).opi = 0 then 0 else s.cfg.rrOffFram) % s.cfg.framBytes d.dev))
        (2 * ((s.taskCfg k).len + 2)) →
      exec (requestInstrs.get k) s = .next (({ s.sentFrame (.frWren d) with
        lockV := true
        lockK := k
        ctx := s.ctx.set k.val { s.ctxAt k with fs := .enabled, op := op } } : State).setFram d
          { s.fram d with wel := true }))

/-- Rules R37, R153: a poll of a busy Flash, without a poll limit, counts one more poll, saturating at 0xFFFF, and leaves the
task, whatever its class, where it is, holding LOCK. -/
def Obligations.BusyPollWaits : Prop :=
  ∀ (k : Task) (s : State),
    (s.ctxAt k).phase = .run → (s.ctxAt k).fs = .issued → s.flash.busy = true → s.cfg.busyPollLimit = none →
    ∃ polls : BitVec 16, polls.toNat = min ((s.ctxAt k).polls.toNat + 1) 0xFFFF ∧
      exec (requestInstrs.get k) s = .next { s.afterPoll with
        ctx := s.ctx.set k.val { s.ctxAt k with polls := polls } }

/-- Rule R154: with BUSY_POLL_LIMIT = T, the busy poll that brings POLLS to T releases LOCK and ends the task TIMEOUT; the
device stays busy and a capture's COUNT and ADDR do not advance. Any other busy poll counts and waits. That a limit above
0xFFFF, which the saturating POLLS never reaches, never ends a task is the model's choice (log entry 22). -/
def Obligations.PollLimitEndsTimeout : Prop :=
  ∀ (k : Task) (s : State) (limit : Nat),
    (s.ctxAt k).phase = .run → (s.ctxAt k).fs = .issued → s.flash.busy = true →
    s.cfg.busyPollLimit = some limit →
    ∃ polls : BitVec 16, polls.toNat = min ((s.ctxAt k).polls.toNat + 1) 0xFFFF ∧
      exec (requestInstrs.get k) s = .next (
        if polls.toNat = limit then
          finish k .timeout { s.afterPoll with
            lockV := false
            ctx := s.ctx.set k.val { s.ctxAt k with polls := polls, fs := .boundary, pend := 0 } }
        else { s.afterPoll with ctx := s.ctx.set k.val { s.ctxAt k with polls := polls } })

/-- Rules R153, R217, R231, R232: the poll that reads not-busy completes an erase or page-write task: LOCK released, POLLS
cleared, Finish(OK). -/
def Obligations.SingleFlashTaskCompletes : Prop :=
  ∀ (k : Task) (s : State), (s.taskCfg k).cls ∈ [OpClass.eraseSector, .eraseBlock, .pageWrite] →
    (s.ctxAt k).phase = .run → (s.ctxAt k).fs = .issued → s.flash.busy = false →
    exec (requestInstrs.get k) s = .next (finish k .ok { s.afterPoll with
      lockV := false
      ctx := s.ctx.set k.val { s.ctxAt k with polls := 0, fs := .boundary } })

/-- Rules R153, R179, R217: the poll that completes one of the first four operations of a calibration write advances OPI; the
task goes on, or is withdrawn where the host has cleared its request. -/
def Obligations.CalibrationWriteAdvances : Prop :=
  ∀ (k : Task) (s u : State), (s.taskCfg k).cls = .calWrite →
    (s.ctxAt k).phase = .run → (s.ctxAt k).fs = .issued → (s.ctxAt k).opi.toNat < 4 → s.flash.busy = false →
    u = { s.afterPoll with
      lockV := false
      ctx := s.ctx.set k.val
        { s.ctxAt k with polls := 0, fs := .boundary, opi := (s.ctxAt k).opi + 1 } } →
    exec (requestInstrs.get k) s = .next (if bitAt s.req k = true then u else withdraw k u)

/-- Rule R179: at every op boundary of its first four operations, the begin included, a calibration write ends PROTECTED
while PROT = 1, without a frame. -/
def Obligations.CalibrationWriteRefused : Prop :=
  ∀ (k : Task) (s : State), (s.taskCfg k).cls = .calWrite → s.prot = true →
    ((s.ctxAt k).phase = .idle → (s.taskCfg k).devs = [.flash] → 1 ≤ (s.taskCfg k).len →
      (s.taskCfg k).len ≤ s.cfg.lMax →
      exec (requestInstrs.get k) s =
        .next (finish k .writeProtected { s with ctx := s.ctx.set k.val (s.begun k) })) ∧
    ((s.ctxAt k).phase = .run → (s.ctxAt k).fs = .boundary → (s.ctxAt k).opi.toNat < 4 →
      exec (requestInstrs.get k) s = .next (finish k .writeProtected s))

/-- Rules R152, R180, R181: the protect step of a calibration write and the second slice of the unlock task send their frame,
write PROT, release LOCK and end OK; the device writes BP where it is idle and enabled. -/
def Obligations.ProtectionStepsComplete : Prop :=
  ∀ (frame : Instr) (bp : Bool) (k : Task) (s : State), s.OpOk →
    ((s.taskCfg k).cls = .calUnlock ∧ frame = .flUlbpr ∧ bp = false ∨
     (s.taskCfg k).cls = .calWrite ∧ (s.ctxAt k).opi = 4 ∧ frame = .flProtect s.cfg.protectData ∧ bp = true) →
    (s.ctxAt k).phase = .run → (s.ctxAt k).fs = .enabled →
    exec (requestInstrs.get k) s = .next (finish k .ok { s.sentFrame frame with
      flash := s.protection bp
      lockV := false
      prot := bp
      ctx := s.ctx.set k.val { s.ctxAt k with fs := .boundary } })

/-- Rules R158, R170, R173: the write slice of a record write stores the record, computed from VAL, in the copy its OPI names,
at A mod FRAM_BYTES or at (A + RR_OFF_FRAM) mod FRAM_BYTES, byte by byte where the device is enabled, and leaves every
other byte alone; after the primary the task goes on at OPI = 1 (or is withdrawn), after the secondary it ends OK. -/
def Obligations.RecordWriteStoresCopy : Prop :=
  ∀ (k : Task) (d : FramSel) (s : State) (a : FramAddr), s.OpOk → (s.taskCfg k).cls = .rrWrite →
    (s.taskCfg k).devs = [d.dev] → 1 ≤ (s.taskCfg k).len → (s.taskCfg k).len ≤ 62 →
    (s.ctxAt k).phase = .run → (s.ctxAt k).fs = .enabled → (s.ctxAt k).opi.toNat < 2 →
    a = BitVec.ofNat 24
      (((s.taskCfg k).addr.toNat + if (s.ctxAt k).opi = 0 then 0 else s.cfg.rrOffFram) % s.cfg.framBytes d.dev) →
    ∃ (m : Memory) (u : State),
      u = ({ s.sentFrame (.frWrite d a (s.recordBytes k)) with
        lockV := false
        ctx := s.ctx.set k.val { s.ctxAt k with fs := .boundary, opi := 1 } } : State).setFram d ⟨m, false⟩ ∧
      exec (requestInstrs.get k) s =
        .next (if (s.ctxAt k).opi = 1 then finish k .ok u else if bitAt s.req k = true then u else withdraw k u) ∧
      ((s.fram d).wel = false → m = (s.fram d).array) ∧
      ((s.fram d).wel = true → ∀ j (h : j < (s.recordBytes k).length),
        (∀ l, j < l → l < (s.recordBytes k).length →
          (a.toNat + l) % s.cfg.framBytes d.dev ≠ (a.toNat + j) % s.cfg.framBytes d.dev) →
        m.read ((a.toNat + j) % s.cfg.framBytes d.dev) = (s.recordBytes k)[j]) ∧
      (∀ x, (∀ j < (s.recordBytes k).length, (a.toNat + j) % s.cfg.framBytes d.dev ≠ x) →
        m.read x = (s.fram d).array.read x)

/-- Rules R158, R234, R242: the second slice of a raw FRAM write sends BUF[0..n-1] as it stands, high bytes first, to the device
and address that its first slice kept; the device stores them from there on, modulo FRAM_BYTES, where it is enabled; LOCK
released, Finish(OK). That device, address and n are those of the first slice is the model's choice (log entry 18). -/
def Obligations.FramWriteTaskStores : Prop :=
  ∀ (k : Task) (d : FramSel) (s : State) (a : FramAddr) (n : Nat) (bytes : List Byte),
    (s.taskCfg k).cls = .framWrite → (s.ctxAt k).phase = .run → (s.ctxAt k).fs = .enabled →
    (s.ctxAt k).op = .fram d a n → 1 ≤ n → n ≤ 128 →
    bytes = halvesBytes ((s.ctxAt k).buf.toList.take n) →
    ∃ m : Memory,
      exec (requestInstrs.get k) s = .next (finish k .ok (({ s.sentFrame (.frWrite d a bytes) with
        lockV := false
        ctx := s.ctx.set k.val { s.ctxAt k with fs := .boundary } } : State).setFram d ⟨m, false⟩)) ∧
      ((s.fram d).wel = false → m = (s.fram d).array) ∧
      ((s.fram d).wel = true → ∀ j (h : j < bytes.length),
        (∀ l, j < l → l < bytes.length →
          (a.toNat + l) % s.cfg.framBytes d.dev ≠ (a.toNat + j) % s.cfg.framBytes d.dev) →
        m.read ((a.toNat + j) % s.cfg.framBytes d.dev) = bytes[j]) ∧
      (∀ x, (∀ j < bytes.length, (a.toNat + j) % s.cfg.framBytes d.dev ≠ x) → m.read x = (s.fram d).array.read x)

/-! ### Reads -/

/-- Rules R170, R171, R174, R175: a record read that begins reads the primary copy in its first slice, from byte A mod
FRAM_BYTES of an FRAM or A·256 of the Flash on, each word from four bytes, most significant first. A valid copy, whose sum
and complement match, is accepted: VAL[0..L-1] takes its payload, every other word of VAL stays, SRC = 0, Finish(OK). An
invalid one writes nothing to VAL and the task goes on at OPI = 1. The bytes are the copy's where the device is idle
(they are free where a Flash is still busy). -/
def Obligations.RecordReadPrimary : Prop :=
  ∀ (k : Task) (d : Dev) (s : State) (frame : Instr) (start len : Nat) (c : Ctx),
    (s.taskCfg k).cls = .rrRead → (s.taskCfg k).devs = [d] → (s.taskCfg k).len = len →
    1 ≤ len → len ≤ s.cfg.lMax → len ≤ 62 → (s.ctxAt k).phase = .idle →
    (frame, start) = (match d with
      | .flash => (.flRead ((s.taskCfg k).packed ++ 0#8) (2 * (len + 2)), (s.taskCfg k).packed.toNat * 256)
      | .fram1 => (.frRead .fram1 (BitVec.ofNat 24 start) (4 * (len + 2)), (s.taskCfg k).addr.toNat % s.cfg.framBytes1)
      | .fram2 => (.frRead .fram2 (BitVec.ofNat 24 start) (4 * (len + 2)), (s.taskCfg k).addr.toNat % s.cfg.framBytes2)) →
    (∀ e : FramSel, d = e.dev → 1 ≤ s.cfg.framBytes e.dev ∧ s.cfg.framBytes e.dev ≤ 16777216) →
    c = { s.begun k with src := .noRead } →
    ∃ (bytes : List Byte) (words : List Word) (valid : Bool) (val : Vector Word 62) (free : Nat) (u : State),
      bytes.length = 4 * (len + 2) ∧
      (¬(d = .flash ∧ s.flash.busy = true) → free = s.env.free ∧
        ∀ j (h : j < bytes.length), bytes[j] = (s.arrayOf d).read ((start + j) % s.sizeOf d)) ∧
      words = (List.range (len + 2)).map (fun i =>
        ((bytes.getD (4 * i) 0 ++ bytes.getD (4 * i + 1) 0 : Half) ++
          (bytes.getD (4 * i + 2) 0 ++ bytes.getD (4 * i + 3) 0 : Half) : Word)) ∧
      (valid = true ↔ (words.take len).foldl (· + ·) 0 = words.getD len 0 ∧
        words.getD (len + 1) 0 = ~~~(words.getD len 0)) ∧
      (∀ i : Fin 62, val.get i = if i.val < len then words.getD i.val 0 else (s.ctxAt k).val.get i) ∧
      u = { s.afterRead frame bytes with env := { s.env with free := free } } ∧
      exec (requestInstrs.get k) s = .next (
        if valid = true then finish k .ok { u with ctx := s.ctx.set k.val { c with val := val, src := .primary } }
        else { u with ctx := s.ctx.set k.val { c with opi := 1 } })

/-- Rules R170, R171, R175, R176: after an invalid primary the next slice reads the secondary copy, from byte (A + RR_OFF_FRAM)
mod FRAM_BYTES of an FRAM or ((A + RR_OFF_FLASH) mod 2^16)·256 of the Flash on. A valid one is accepted with SRC = 1,
Finish(OK). Else VAL[0..L-1] takes the caller's default, SRC = 2, SFLT[k] is set, Finish(DEFAULTED). In both cases every
other word of VAL stays. -/
def Obligations.RecordReadSecondaryOrDefault : Prop :=
  ∀ (k : Task) (d : Dev) (s : State) (frame : Instr) (start len : Nat),
    (s.taskCfg k).cls = .rrRead → (s.taskCfg k).devs = [d] → (s.taskCfg k).len = len →
    1 ≤ len → len ≤ 62 → (s.ctxAt k).phase = .run → (s.ctxAt k).fs = .boundary → (s.ctxAt k).opi = 1 →
    (frame, start) = (match d with
      | .flash => (.flRead (((s.taskCfg k).packed + s.cfg.rrOffFlash) ++ 0#8) (2 * (len + 2)),
          ((s.taskCfg k).packed + s.cfg.rrOffFlash).toNat * 256)
      | .fram1 => (.frRead .fram1 (BitVec.ofNat 24 start) (4 * (len + 2)),
          ((s.taskCfg k).addr.toNat + s.cfg.rrOffFram) % s.cfg.framBytes1)
      | .fram2 => (.frRead .fram2 (BitVec.ofNat 24 start) (4 * (len + 2)),
          ((s.taskCfg k).addr.toNat + s.cfg.rrOffFram) % s.cfg.framBytes2)) →
    (∀ e : FramSel, d = e.dev → 1 ≤ s.cfg.framBytes e.dev ∧ s.cfg.framBytes e.dev ≤ 16777216) →
    ∃ (bytes : List Byte) (words : List Word) (valid : Bool) (val : Vector Word 62) (free : Nat) (u : State),
      bytes.length = 4 * (len + 2) ∧
      (¬(d = .flash ∧ s.flash.busy = true) → free = s.env.free ∧
        ∀ j (h : j < bytes.length), bytes[j] = (s.arrayOf d).read ((start + j) % s.sizeOf d)) ∧
      words = (List.range (len + 2)).map (fun i =>
        ((bytes.getD (4 * i) 0 ++ bytes.getD (4 * i + 1) 0 : Half) ++
          (bytes.getD (4 * i + 2) 0 ++ bytes.getD (4 * i + 3) 0 : Half) : Word)) ∧
      (valid = true ↔ (words.take len).foldl (· + ·) 0 = words.getD len 0 ∧
        words.getD (len + 1) 0 = ~~~(words.getD len 0)) ∧
      (∀ i : Fin 62, val.get i =
        if i.val < len then (if valid = true then words.getD i.val 0 else (s.ctxAt k).dflt.get i)
        else (s.ctxAt k).val.get i) ∧
      u = { s.afterRead frame bytes with env := { s.env with free := free } } ∧
      exec (requestInstrs.get k) s = .next (
        if valid = true then
          finish k .ok { u with ctx := s.ctx.set k.val { s.ctxAt k with val := val, src := .secondary } }
        else
          finish k .defaulted { u with
            sflt := s.sflt ||| requestWord k
            ctx := s.ctx.set k.val { s.ctxAt k with val := val, src := .default } })

/-- Rules R61, R62, R69, R233: a generic read that passes its begin check moves N words from its device into BUF[0..N-1] in
one slice, high byte first, and ends OK; BUF[N..127] and every other field stay. The words are the device's where it is
idle (they are free where a Flash is still busy). -/
def Obligations.GenericReadFillsBuffer : Prop :=
  ∀ (k : Task) (d : Dev) (s : State) (start : Nat), (s.taskCfg k).cls = .read →
    (s.ctxAt k).phase = .idle → devOfSelector (s.ctxAt k).dev = some d → d ∈ (s.taskCfg k).devs →
    1 ≤ (s.ctxAt k).n.toNat → (s.ctxAt k).n.toNat ≤ 128 →
    start = (if d = .flash then (s.ctxAt k).addr.toNat * 256 else (s.ctxAt k).addr.toNat % s.sizeOf d) →
    ∃ (bytes : List Byte) (buf : Vector Half 128) (free : Nat),
      exec (requestInstrs.get k) s = .next (finish k .ok { s.afterRead (readFrame s.cfg (s.ctxAt k) d) bytes with
        env := { s.env with free := free }
        ctx := s.ctx.set k.val { s.begun k with buf := buf } }) ∧
      bytes.length = 2 * (s.ctxAt k).n.toNat ∧
      (¬(d = .flash ∧ s.flash.busy = true) → free = s.env.free ∧
        ∀ j (h : j < bytes.length), bytes[j] = (s.arrayOf d).read ((start + j) % s.sizeOf d)) ∧
      ∀ j : Fin 128, buf.get j =
        if j.val < (s.ctxAt k).n.toNat then bytes.getD (2 * j.val) 0 ++ bytes.getD (2 * j.val + 1) 0
        else (s.ctxAt k).buf.get j

/-! ### Captures -/

/-- Rules R157, R191, R193, R194, R218, R287: the first slice of a capture clears COUNT and PEND, fixes NZERO and asks for an
erase; with ABORT set it is retired at once, without a frame; else it sends FL_WREN and takes LOCK for the erase of the
sector of ADDR. -/
def Obligations.CaptureBegins : Prop :=
  ∀ (k : Task) (s : State) (c : Ctx), (s.taskCfg k).cls = .capture → (s.ctxAt k).phase = .idle →
    c = { s.begun k with
      count := 0
      pend := 0
      needErase := true
      nzero := if s.ring.filled = false ∧ s.ring.w.toNat ≤ (s.ctxAt k).rstart.toNat then
          BitVec.ofNat 33 (s.cfg.ringN - (s.ctxAt k).rstart.toNat)
        else 0 } →
    exec (requestInstrs.get k) s = .next (
      if (s.ctxAt k).abort = true then retire k { s with ctx := s.ctx.set k.val c }
      else { s.sentFrame .flWren with
        flash := { s.flash with wel := s.flash.wel || !s.flash.busy }
        lockV := true
        lockK := k
        ctx := s.ctx.set k.val { c with fs := .enabled, op := .se (s.ctxAt k).addr } })

/-- Rules R156, R157, R193, R194: at an op boundary a running capture with ABORT set is retired without a frame; else it starts
the erase of the sector of ADDR where NEED_ERASE = 1, else the program of the page ADDR with m = min(7, 2880 - COUNT)
sample-sets, m·S_W words. -/
def Obligations.CaptureOpBoundary : Prop :=
  ∀ (k : Task) (s : State) (m : Nat), (s.taskCfg k).cls = .capture →
    (s.ctxAt k).phase = .run → (s.ctxAt k).fs = .boundary → m = min 7 (2880 - (s.ctxAt k).count.toNat) →
    exec (requestInstrs.get k) s = .next (
      if (s.ctxAt k).abort = true then retire k s
      else { s.sentFrame .flWren with
        flash := { s.flash with wel := s.flash.wel || !s.flash.busy }
        lockV := true
        lockK := k
        ctx := s.ctx.set k.val (
          if (s.ctxAt k).needErase = true then
            { s.ctxAt k with opi := 0, fs := .enabled, polls := 0, op := .se (s.ctxAt k).addr }
          else { s.ctxAt k with
            opi := 1, fs := .enabled, polls := 0, op := .prog (s.ctxAt k).addr (m * s.cfg.setWords)
            pend := BitVec.ofNat 3 m }) })

/-- Rules R105, R151, R192, R194, R199, R229: the command slice of a capture that programs a page sends PEND sample-sets from
number COUNT on, zeros below NZERO, else the ring slots as they stand when read. That the pushes which fall inside the
tick fall one group after each ring read is the model's choice (log entry 11). The page is the one its op boundary fixed;
the slice of its erase is that of any class. -/
def Obligations.CaptureCommandSlice : Prop :=
  ∀ (k : Task) (s : State) (c : Ctx) (p : Packed) (n : Nat), c = s.ctxAt k → (s.taskCfg k).cls = .capture →
    c.phase = .run → c.fs = .enabled →
    (c.op = .se p → exec (requestInstrs.get k) s = .next { s.sentFrame (.flSe p) with
      flash := s.commanded (.eraseSector (p.extractLsb' 4 12))
      ctx := s.ctx.set k.val { c with fs := .issued } }) ∧
    (c.op = .prog p n → c.pend ≠ 0 → s.cfg.Ok → s.memoryOk = true →
      ∃ (words : List Half) (reads : Nat), reads = c.count.toNat + c.pend.toNat - max c.nzero.toNat c.count.toNat ∧
        exec (requestInstrs.get k) s = .next { s.sentFrame (.flPp p words) with
          flash := s.commanded (.program (p ++ 0#8) (halvesBytes words))
          ring := s.ringAfter reads
          env := { s.env with between := s.env.between.drop reads }
          ctx := s.ctx.set k.val { c with fs := .issued } } ∧
        words.length = c.pend.toNat * s.cfg.setWords ∧
        ∀ j w, j < c.pend.toNat → w < s.cfg.setWords →
          words.getD (j * s.cfg.setWords + w) 0 =
            if c.count.toNat + j < c.nzero.toNat then 0
            else ((s.ringAfter (c.count.toNat + j - max c.nzero.toNat c.count.toNat)).read s.cfg.setWords
              ((c.rstart.toNat + (c.count.toNat + j)) % s.cfg.ringN)).getD w 0)

/-- Rules R193, R195-R197, R217: the poll that reads not-busy commits a capture's erase (NEED_ERASE cleared) or its page (COUNT
and ADDR advanced, NEED_ERASE set at a sector's first page), then retires it if ABORT = 1, else ends it OK at COUNT =
2880, else withdraws it if its request is clear, else it goes on. That an OPI of 2..15, which no run reaches, counts as a
page is the model's choice (log entry 15). -/
def Obligations.CaptureCommits : Prop :=
  ∀ (k : Task) (s u : State) (c c' : Ctx), c = s.ctxAt k → (s.taskCfg k).cls = .capture →
    c.phase = .run → c.fs = .issued → s.flash.busy = false →
    c' = (if c.opi = 0 then { c with polls := 0, fs := .boundary, needErase := false }
      else { c with
        polls := 0
        fs := .boundary
        count := c.count + c.pend.setWidth 12
        pend := 0
        addr := c.addr + 1
        needErase := c.needErase || (c.addr + 1).toNat % 16 == 0 }) →
    u = { s.afterPoll with lockV := false, ctx := s.ctx.set k.val c' } →
    exec (requestInstrs.get k) s = .next (
      if c.abort = true then retire k u
      else if c'.count.toNat = 2880 then finish k .ok u
      else if bitAt s.req k = true then u
      else withdraw k u)

/-! ### Invariants that every step keeps -/

/-- Rules R45, R47, R48, R71: with parameters that meet rule R9, every step keeps every store in its canonical form, inside its
address space, and the Flash's operation inside its page. -/
def Obligations.StoresStayCanonical : Prop :=
  ∀ s t : State, s.cfg.Ok → s.memoryOk = true → step s = .next t → t.memoryOk = true

/-- Rules R27, R51, R150-R158, R170, R213, R226: every step keeps LOCK and the tasks' positions in agreement (the holder and no
other task is inside a device operation), keeps every acknowledged task idle, and keeps with each task that is inside a
device operation the one its class's sequence has at its OPI: for a record write the copy's address, for a calibration
write the erase, the program or the protect step of the copy. -/
def Obligations.LockAndAcknowledgeKept : Prop :=
  ∀ s t : State, s.LockOk → s.AckOk → step s = .next t → t.LockOk ∧ t.AckOk ∧ (s.OpOk → t.OpOk)

/-- Rules R83, R159: without a poll limit and with no frame but the engine's own, every step keeps it true that the Flash is
busy only for the LOCK holder's command while that task polls; and a tick that finds it busy sends it only polls. -/
def Obligations.BusyFlashOnlyPolled : Prop :=
  ∀ s t : State, s.cfg.busyPollLimit = none → s.port.bus = none → s.LockOk → s.FlashOk → s.FlashHeld →
    (step s = .next t → t.port.bus = none ∧ t.LockOk ∧ t.FlashOk ∧ t.FlashHeld) ∧
    (tick s = .next t → s.flash.busy = true → ∀ f ∈ t.port.sent, f = encodeFrame s.cfg.cmds .flRdsr)

/-- Rules R194, R196-R198: every step keeps each capture's COUNT a whole number of pages of seven sample-sets or the whole
capture, below it while the capture runs, and PEND the size of the page in flight. -/
def Obligations.CaptureLengthsKept : Prop :=
  ∀ s t : State, s.CapturesOk → step s = .next t → t.CapturesOk

/-- Rule R50: no step of the engine, the host or any other agent changes TASKCFG, REGION_MAP or any parameter. -/
def Obligations.ConfigurationNeverChanges : Prop :=
  ∀ s t : State, step s = .next t → t.cfg = s.cfg

/-- Rules R270, R276: right after power-up, whatever the arrays hold, the registers have the values of the reset table, the
launch premises hold, and so do the invariants of the model. -/
def Obligations.ResetMeetsLaunchPremises : Prop :=
  (∀ (p : Params) (fl f1 f2 : Memory) (s : State), s = State.powerUp p fl f1 f2 →
    s.req = 0 ∧ s.ack = 0 ∧ s.sflt = 0 ∧ s.lockV = false ∧ s.lockK = 0 ∧ s.prot = p.protReset ∧
    (∀ k, (s.ctxAt k).phase = .idle ∧ (s.ctxAt k).opi = 0 ∧ (s.ctxAt k).fs = .boundary ∧ (s.ctxAt k).status = .none ∧
      (s.ctxAt k).abort = false ∧ (s.ctxAt k).src = .noRead ∧ (s.ctxAt k).needErase = false ∧ (s.ctxAt k).pend = 0 ∧
      (s.ctxAt k).polls = 0 ∧ (s.ctxAt k).count = 0 ∧ (s.ctxAt k).nzero = 0) ∧
    s.ring.w = 0 ∧ s.ring.filled = false ∧ s.flash = ⟨fl, false, false, none, p.protReset⟩ ∧
    s.fram1 = ⟨f1, false⟩ ∧ s.fram2 = ⟨f2, false⟩ ∧
    s.Launch ∧ s.LockOk ∧ s.AckOk ∧ s.OpOk ∧ s.FlashOk ∧ s.FlashHeld ∧ s.TransportIdle ∧ s.CapturesOk) ∧
  State.reset.cfg.Ok ∧ State.reset.memoryOk = true ∧ State.reset.prot = false ∧ State.reset.flash.bp = false

/-! ### The host and the front-end -/

/-- Rules R22, R30: a narrow or misaligned access is refused. An aligned 32-bit write changes the register at its offset and
nothing else: an offset outside the map, which has a context for each of the REQ_W request bits, reads 0 and ignores
writes; of a context's registers PROG and POLL ignore writes, CTL takes ABORT alone (set by a 1, not cleared by a 0), and
ARG, RST, VAL, DFLT and BUF take their fields' bits and ignore the others; no write changes an engine-owned field. A read
changes nothing. -/
def Obligations.HostAccessOwnership : Prop :=
  ∀ (s : State) (width : Width) (off v : Word),
    (width ≠ .word → hostWrite width off v s = .refused .narrowHostAccess ∧
      hostRead width off s = .refused .narrowHostAccess) ∧
    (width = .word → off.toNat % 4 ≠ 0 → hostWrite width off v s = .refused .misalignedHostAccess ∧
      hostRead width off s = .refused .misalignedHostAccess) ∧
    (width = .word → off.toNat % 4 = 0 →
      (∃ d, hostRead width off s = .next { s with env := { s.env with hostData := d } }) ∧
      ∃ req sflt ctx, hostWrite width off v s = .next { s with req := req, sflt := sflt, ctx := ctx } ∧
        ∀ k : Task, ∃ abort addr dev n rstart val dflt buf,
          ctx.get k = { s.ctxAt k with
            abort := abort, addr := addr, dev := dev, n := n, rstart := rstart, val := val, dflt := dflt, buf := buf } ∧
          ((s.ctxAt k).abort = true → abort = true)) ∧
    (∀ o : Nat, width = .word → off.toNat % 4 = 0 → o = (off.toNat - 0x1000) % 0x800 →
      ¬(off.toNat ≤ 0x018 ∨ 0x1000 ≤ off.toNat ∧ off.toNat < 0x11000 ∧ (off.toNat - 0x1000) / 0x800 < s.cfg.reqW ∧
        (o ≤ 0x010 ∨ 0x100 ≤ o ∧ o < 0x1F8 ∨ 0x200 ≤ o ∧ o < 0x2F8 ∨ 0x400 ≤ o ∧ o < 0x600)) →
      hostRead width off s = .next { s with env := { s.env with hostData := 0 } } ∧ hostWrite width off v s = .next s) ∧
    (∀ (k : Task) (o : Nat) (c : Ctx), width = .word → k.val < s.cfg.reqW → off.toNat = 0x1000 + 0x800 * k.val + o →
      (o = 0x000 ∧ c = { s.ctxAt k with abort := (s.ctxAt k).abort || v.getLsbD 12 } ∨
       o = 0x004 ∧ c = { s.ctxAt k with
         addr := v.extractLsb' 0 16, dev := v.extractLsb' 16 2, n := v.extractLsb' 24 8 } ∨
       o = 0x008 ∧ c = { s.ctxAt k with rstart := BitVec.ofNat 32 (v.toNat % s.cfg.ringN) } ∨
       o = 0x00C ∧ c = s.ctxAt k ∨ o = 0x010 ∧ c = s.ctxAt k ∨
       (∃ i : Fin 62, o = 0x100 + 4 * i.val ∧ c = { s.ctxAt k with val := (s.ctxAt k).val.set i.val v }) ∨
       (∃ i : Fin 62, o = 0x200 + 4 * i.val ∧ c = { s.ctxAt k with dflt := (s.ctxAt k).dflt.set i.val v }) ∨
       (∃ i : Fin 128, o = 0x400 + 4 * i.val ∧
         c = { s.ctxAt k with buf := (s.ctxAt k).buf.set i.val (v.extractLsb' 0 16) })) →
      hostWrite width off v s = .next { s with ctx := s.ctx.set k.val c })

/-- Rules R22-R26, R29, R81: the global registers: REQ_SET sets those of its REQ_W bits that are written as 1, REQ_CLR clears
the bits written as 1, both read 0, SFLT clears the bits written as 1, and ACK, REQ, SFLT, ENGSTAT and RINGSTAT read the
state in their bits without changing it; a RING_W above the twelve bits of the default RING_N reads in the reserved bits
below RING_FILLED, its low sixteen bits, which is the model's choice (log entry 4). -/
def Obligations.GlobalRegisters : Prop :=
  ∀ (s : State) (v : Word),
    (∃ r : Word, hostWrite .word 0x004 v s = .next { s with req := r } ∧
      ∀ k : Task, bitAt r k = (bitAt s.req k || bitAt v k && decide (k.val < s.cfg.reqW))) ∧
    hostWrite .word 0x008 v s = .next { s with req := s.req &&& ~~~v } ∧
    hostWrite .word 0x010 v s = .next { s with sflt := s.sflt &&& ~~~v } ∧
    (∀ off : Word, off ∈ [(0x000 : Word), 0x00C, 0x014, 0x018] → hostWrite .word off v s = .next s) ∧
    (∀ (off d : Word), (off, d) ∈ [((0x000 : Word), s.req), (0x004, 0), (0x008, 0), (0x00C, s.ack), (0x010, s.sflt)] →
      hostRead .word off s = .next { s with env := { s.env with hostData := d } }) ∧
    (∃ d : Word, hostRead .word 0x014 s = .next { s with env := { s.env with hostData := d } } ∧
      (d.extractLsb' 0 5).toNat = s.lockK.val ∧ d.getLsbD 7 = s.lockV ∧ d.getLsbD 8 = s.prot ∧
      (d.getLsbD 9 = true ↔ ∃ k, bitAt s.sflt k = true) ∧ d.extractLsb' 5 2 = 0 ∧ d.extractLsb' 10 22 = 0) ∧
    (∃ d : Word, hostRead .word 0x018 s = .next { s with env := { s.env with hostData := d } } ∧
      (d.extractLsb' 0 16).toNat = s.ring.w.toNat % 65536 ∧ d.getLsbD 16 = s.ring.filled ∧ d.extractLsb' 17 15 = 0)

/-- Rules R22, R108, R109: each line of a host script is the one register write of its table row, which changes the one field
it names and nothing else; each of a context's registers reads back what its fields hold in their bits, its other bits
0. Of an NZERO above 13 bits the low 13 are read, which is the model's choice (log entry 4). ADDR, DEV and N share one
register: that the write of one of them writes the word `arg` that the host wrote before in the other bits, and
REQUEST 0 in the bits that none of its fields gives, is the model's choice (log entry 21). -/
def Obligations.ScriptLinesWriteTheirField : Prop :=
  ∀ (s : State) (k : Task), k.val < s.cfg.reqW →
    act (scriptSet k) s = .next { s with req := s.req ||| requestWord k } ∧
    act (scriptClr k) s = .next { s with req := s.req &&& ~~~(requestWord k) } ∧
    act (scriptClrFlt k) s = .next { s with sflt := s.sflt &&& ~~~(requestWord k) } ∧
    act (scriptAbort k) s = .next { s with ctx := s.ctx.set k.val { s.ctxAt k with abort := true } } ∧
    (∀ addr dev n, act (scriptArg k addr dev n) s =
      .next { s with ctx := s.ctx.set k.val { s.ctxAt k with addr := addr, dev := dev, n := n } }) ∧
    (∀ (arg : Word) addr, act (scriptWrite k arg (.addr addr)) s = .next { s with
      ctx := s.ctx.set k.val { s.ctxAt k with addr := addr, dev := arg.extractLsb' 16 2, n := arg.extractLsb' 24 8 } }) ∧
    (∀ (arg : Word) dev, act (scriptWrite k arg (.dev dev)) s = .next { s with
      ctx := s.ctx.set k.val { s.ctxAt k with addr := arg.extractLsb' 0 16, dev := dev, n := arg.extractLsb' 24 8 } }) ∧
    (∀ (arg : Word) n, act (scriptWrite k arg (.n n)) s = .next { s with
      ctx := s.ctx.set k.val { s.ctxAt k with addr := arg.extractLsb' 0 16, dev := arg.extractLsb' 16 2, n := n } }) ∧
    (∀ addr dev n, runScript (scriptRequest k [.addr addr, .dev dev, .n n]) s = .next { s with
      req := s.req ||| requestWord k
      ctx := s.ctx.set k.val { s.ctxAt k with addr := addr, dev := dev, n := n } }) ∧
    (∀ rstart, rstart.toNat < s.cfg.ringN → act (scriptRst k rstart) s =
      .next { s with ctx := s.ctx.set k.val { s.ctxAt k with rstart := rstart } }) ∧
    (∀ i v, act (scriptVal k i v) s =
      .next { s with ctx := s.ctx.set k.val { s.ctxAt k with val := (s.ctxAt k).val.set i.val v } }) ∧
    (∀ i v, act (scriptDflt k i v) s =
      .next { s with ctx := s.ctx.set k.val { s.ctxAt k with dflt := (s.ctxAt k).dflt.set i.val v } }) ∧
    (∀ i v, act (scriptBuf k i v) s =
      .next { s with ctx := s.ctx.set k.val { s.ctxAt k with buf := (s.ctxAt k).buf.set i.val v } }) ∧
    (∀ i : Fin 62, act (.hostRead .word (ctxOffset k (0x100 + 4 * i.val))) s =
      .next { s with env := { s.env with hostData := (s.ctxAt k).val.get i } }) ∧
    (∀ i : Fin 62, act (.hostRead .word (ctxOffset k (0x200 + 4 * i.val))) s =
      .next { s with env := { s.env with hostData := (s.ctxAt k).dflt.get i } }) ∧
    (∀ i : Fin 128, act (.hostRead .word (ctxOffset k (0x400 + 4 * i.val))) s =
      .next { s with env := { s.env with hostData := 0#16 ++ (s.ctxAt k).buf.get i } }) ∧
    act (.hostRead .word (ctxOffset k 0x008)) s = .next { s with env := { s.env with hostData := (s.ctxAt k).rstart } } ∧
    act (.hostRead .word (ctxOffset k 0x010)) s =
      .next { s with env := { s.env with hostData := 0#16 ++ (s.ctxAt k).polls } } ∧
    (∃ d : Word, act (.hostRead .word (ctxOffset k 0x004)) s = .next { s with env := { s.env with hostData := d } } ∧
      d.extractLsb' 0 16 = (s.ctxAt k).addr ∧ d.extractLsb' 16 2 = (s.ctxAt k).dev ∧ d.extractLsb' 18 6 = 0 ∧
      d.extractLsb' 24 8 = (s.ctxAt k).n) ∧
    (∃ d : Word, act (.hostRead .word (ctxOffset k 0x00C)) s = .next { s with env := { s.env with hostData := d } } ∧
      d.extractLsb' 0 12 = (s.ctxAt k).count ∧ d.extractLsb' 12 4 = 0 ∧
      (d.extractLsb' 16 13).toNat = (s.ctxAt k).nzero.toNat % 8192 ∧ d.extractLsb' 29 3 = 0) ∧
    (∃ d : Word, act (.hostRead .word (ctxOffset k 0)) s = .next { s with env := { s.env with hostData := d } } ∧
      d.extractLsb' 0 2 = (s.ctxAt k).phase.code ∧ d.extractLsb' 2 4 = (s.ctxAt k).opi ∧
      d.extractLsb' 6 2 = (s.ctxAt k).fs.code ∧ d.extractLsb' 8 4 = (s.ctxAt k).status.code ∧
      d.getLsbD 12 = (s.ctxAt k).abort ∧ d.extractLsb' 13 2 = (s.ctxAt k).src.code ∧
      d.getLsbD 15 = (s.ctxAt k).needErase ∧ d.extractLsb' 16 3 = (s.ctxAt k).pend ∧ d.extractLsb' 19 13 = 0)

/-- Rules R45, R46: a push stores a sample-set of S_W words in slot RING_W, every other slot keeping its own, moves RING_W on
modulo RING_N and raises RING_FILLED on the wrap to 0; nothing else changes. -/
def Obligations.PushFillsSlot : Prop :=
  ∀ (s : State) (v : Sample) (rest : List Action), s.port.bus = none → s.env.inputs = .push v :: rest →
    v.length = s.cfg.setWords → s.cfg.Ok →
    ∃ r : Ring, step s = .next { s with ring := r, env := { s.env with inputs := rest } } ∧
      r.read s.cfg.setWords s.ring.w.toNat = v ∧
      (∀ slot, slot ≠ s.ring.w.toNat → r.read s.cfg.setWords slot = s.ring.read s.cfg.setWords slot) ∧
      r.w.toNat = (s.ring.w.toNat + 1) % s.cfg.ringN ∧
      (r.filled = true ↔ s.ring.filled = true ∨ r.w = 0)

/-! ### A whole run -/

/-- Rules R109, R177: on an idle engine, writing a record and reading it back gives the payload written, for every writer and
reader that share the record: an RR_WRITE by `TICK ×4`, where its two copies lie in different bytes, and a CAL_WRITE, the
Flash idle and unprotected, by `TICK`, `TICK` FAST, `TICK` for each of its erases and programs and `TICK ×2` for its
protect step; then `RELEASE w`, `SET r`, `TICK`. Both tasks end OK, the read from the primary copy. -/
def Obligations.RedundantRoundTrip : Prop :=
  ∀ (s : State) (w r : Task) (len : Nat) (writing : List Action), s.cfg.Ok →
    (s.taskCfg r).cls = .rrRead → (s.taskCfg r).devs = (s.taskCfg w).devs →
    (s.taskCfg r).addr = (s.taskCfg w).addr → (s.taskCfg r).len = len → (s.taskCfg w).len = len →
    ((s.taskCfg w).cls = .rrWrite ∧ writing = scriptTicks 4 ∧
       (∀ d : FramSel, (s.taskCfg w).devs = [d.dev] → 4 * (len + 2) ≤ s.cfg.framBytes d.dev ∧
         ∀ i < 4 * (len + 2), ∀ j < 4 * (len + 2),
           ((s.taskCfg w).addr.toNat + i) % s.cfg.framBytes d.dev ≠
             ((s.taskCfg w).addr.toNat + s.cfg.rrOffFram + j) % s.cfg.framBytes d.dev) ∨
     (s.taskCfg w).cls = .calWrite ∧
       writing = (List.replicate 4 ([scriptTick] ++ scriptFast ++ [scriptTick])).flatten ++ scriptTicks 2 ∧
       s.prot = false ∧ s.flash.bp = false ∧ s.flash.busy = false) →
    (∀ k, (s.ctxAt k).phase = .idle) → s.lockV = false → s.req = requestWord w → s.ack = 0 →
    s.port.bus = none → s.env.inputs = writing ++ scriptRelease w ++ [scriptSet r, scriptTick] →
    ∃ t : State, Host.Core.run Sys2Proof.core (writing.length + 4) s = .next t ∧
      (t.ctxAt r).val.toList.take len = (s.ctxAt w).val.toList.take len ∧
      (t.ctxAt r).src = .primary ∧ (t.ctxAt r).status = .ok ∧ (t.ctxAt w).status = .ok ∧
      t.req = requestWord r ∧ t.ack = requestWord r
end

