-- ==== Sys2Proof/Laws/Decode.lean ====
section
/-! SUPPORT. What each helper of the decoder and encoder does, said once: the byte order of transport words and addresses
(20_memory.md rule R68, 30_encoding.md rules R97, R103), and the choice of the request bit of highest priority (rule
R90). -/

namespace Sys2Proof

open Sys2Proof.Machine

/-! ### Transport words -/

@[simp] theorem halfOf_bytes (h : Half) : halfOf (h.extractLsb' 8 8) (h.extractLsb' 0 8) = h := by
  refine BitVec.eq_of_getLsbD_eq fun i hi => ?_
  rw [halfOf, BitVec.getLsbD_append, BitVec.getLsbD_extractLsb', BitVec.getLsbD_extractLsb']
  by_cases h8 : i < 8
  · simp [h8]
  · simp [h8, show i - 8 < 8 by omega, show 8 + (i - 8) = i by omega]

@[simp] theorem halfBytes_halfOf (hi lo : Byte) : halfBytes (halfOf hi lo) = [hi, lo] := by
  simp only [halfBytes, List.cons.injEq, and_true]
  constructor <;> refine BitVec.eq_of_getLsbD_eq fun i hi' => ?_
  · rw [halfOf, BitVec.getLsbD_extractLsb', BitVec.getLsbD_append]
    simp [hi']
  · rw [halfOf, BitVec.getLsbD_extractLsb', BitVec.getLsbD_append]
    simp [hi']

@[simp] theorem length_halfBytes (h : Half) : (halfBytes h).length = 2 := rfl

@[simp] theorem halvesBytes_nil : halvesBytes [] = [] := rfl
@[simp] theorem halvesBytes_cons (h : Half) (hs : List Half) : halvesBytes (h :: hs) = halfBytes h ++ halvesBytes hs := by
  simp [halvesBytes]
@[simp] theorem halvesOf_nil : halvesOf [] = [] := rfl
@[simp] theorem halvesOf_cons (a b : Byte) (bs : List Byte) : halvesOf (a :: b :: bs) = halfOf a b :: halvesOf bs := rfl

/-- Words to bytes and back. -/
@[simp] theorem halvesOf_halvesBytes (hs : List Half) : halvesOf (halvesBytes hs) = hs := by
  induction hs with
  | nil => rfl
  | cons h hs ih => simp [halfBytes, ih]

/-- Bytes to words and back, for whole words. -/
theorem halvesBytes_halvesOf : ∀ bs : List Byte, bs.length % 2 = 0 → halvesBytes (halvesOf bs) = bs
  | [], _ => rfl
  | [_], h => by simp at h
  | a :: b :: bs, h => by
    rw [halvesOf_cons, halvesBytes_cons, halfBytes_halfOf, halvesBytes_halvesOf bs (by simp at h; omega)]
    rfl

theorem length_halvesOf : ∀ bs : List Byte, (halvesOf bs).length = bs.length / 2
  | [] => rfl
  | [_] => by simp [halvesOf]
  | a :: b :: bs => by simp [length_halvesOf bs]; omega

/-- Bytes `2i` and `2i + 1` are the high and the low byte of word `i`. -/
theorem getD_halvesBytes : ∀ (hs : List Half) (i : Nat) (j : Fin 2), i < hs.length →
    (halvesBytes hs).getD (2 * i + j.val) 0 = (hs.getD i 0).extractLsb' (8 - 8 * j.val) 8
  | [], i, _, h => by simp at h
  | h :: hs, 0, j, _ => by
    match j with
    | 0 => simp [halfBytes]
    | 1 => simp [halfBytes]
  | h :: hs, i + 1, j, hi => by
    have := getD_halvesBytes hs i j (by simpa using hi)
    simp only [halvesBytes_cons, halfBytes, List.cons_append, List.nil_append, List.getD_cons_succ] at this ⊢
    rw [show 2 * (i + 1) + j.val = (2 * i + j.val) + 1 + 1 by omega, List.getD_cons_succ, List.getD_cons_succ, this]

/-- Word `i` of a byte stream. -/
theorem getD_halvesOf : ∀ (bs : List Byte) (i : Nat), 2 * i + 1 < bs.length →
    (halvesOf bs).getD i 0 = halfOf (bs.getD (2 * i) 0) (bs.getD (2 * i + 1) 0)
  | [], i, h => by simp at h
  | [_], i, h => by simp at h
  | a :: b :: bs, 0, _ => by simp
  | a :: b :: bs, i + 1, h => by
    have := getD_halvesOf bs i (by simp at h; omega)
    simp only [halvesOf_cons, List.getD_cons_succ] at this ⊢
    rw [this, show 2 * (i + 1) = 2 * i + 1 + 1 by omega]
    simp only [List.getD_cons_succ]

/-! ### 32-bit words -/

@[simp] theorem wordsOf_nil : wordsOf [] = [] := rfl
@[simp] theorem wordsOf_cons (a b : Half) (hs : List Half) : wordsOf (a :: b :: hs) = (a ++ b : Word) :: wordsOf hs := rfl

@[simp] theorem word_of_halves (w : Word) : ((w.extractLsb' 16 16 : Half) ++ (w.extractLsb' 0 16 : Half) : Word) = w := by
  refine BitVec.eq_of_getLsbD_eq fun i hi => ?_
  rw [BitVec.getLsbD_append, BitVec.getLsbD_extractLsb', BitVec.getLsbD_extractLsb']
  by_cases h16 : i < 16
  · simp [h16]
  · simp [h16, show i - 16 < 16 by omega, show 16 + (i - 16) = i by omega]

/-- Words to halves and back. -/
@[simp] theorem wordsOf_flatMap (ws : List Word) : wordsOf (ws.flatMap wordHalves) = ws := by
  induction ws with
  | nil => rfl
  | cons w ws ih => simp [wordHalves, ih]

/-! ### Addresses -/

@[simp] theorem length_addrBytes (n a : Nat) : (addrBytes n a).length = n := by
  induction n with
  | zero => rfl
  | succ n ih => simp [addrBytes, ih]

/-- An address as bytes and back, modulo what `n` bytes hold. -/
theorem addrOf_addrBytes (n a : Nat) : addrOf (addrBytes n a) = a % 256 ^ n := by
  induction n with
  | zero => simp [addrBytes, addrOf, Nat.mod_one]
  | succ n ih =>
    simp only [addrBytes, addrOf, length_addrBytes, ih, BitVec.toNat_ofNat]
    have h := Nat.mod_mul (x := a) (a := 256 ^ n) (b := 256)
    rw [show (256 : Nat) ^ (n + 1) = 256 ^ n * 256 from rfl, h, show (2 : Nat) ^ 8 = 256 by norm_num]
    ring

theorem addrOf_lt : ∀ bs : List Byte, addrOf bs < 256 ^ bs.length
  | [] => by simp [addrOf]
  | b :: rest => by
    have h := addrOf_lt rest
    have hb : b.toNat + 1 ≤ 256 := b.isLt
    calc addrOf (b :: rest) < b.toNat * 256 ^ rest.length + 256 ^ rest.length := by simpa [addrOf] using h
      _ = (b.toNat + 1) * 256 ^ rest.length := by ring
      _ ≤ 256 * 256 ^ rest.length := Nat.mul_le_mul_right _ hb
      _ = 256 ^ (b :: rest).length := by rw [List.length_cons, pow_succ]; ring

/-- The address bytes depend on the address modulo what they hold. -/
theorem addrBytes_mod (n a k : Nat) : addrBytes n (k * 256 ^ n + a) = addrBytes n a := by
  induction n generalizing k with
  | zero => rfl
  | succ n ih =>
    have h : k * 256 ^ (n + 1) + a = k * 256 * 256 ^ n + a := by rw [pow_succ]; ring
    simp only [addrBytes, List.cons.injEq]
    refine ⟨?_, by rw [h, ih]⟩
    rw [h, Nat.add_comm, Nat.add_mul_div_right _ _ (by positivity)]
    apply BitVec.eq_of_toNat_eq
    simp only [BitVec.toNat_ofNat]
    omega

/-- Address bytes to an address and back. -/
theorem addrBytes_addrOf : ∀ bs : List Byte, addrBytes bs.length (addrOf bs) = bs
  | [] => rfl
  | b :: rest => by
    have hlt := addrOf_lt rest
    simp only [List.length_cons, addrBytes, addrOf, List.cons.injEq]
    refine ⟨?_, by rw [addrBytes_mod, addrBytes_addrOf rest]⟩
    rw [Nat.add_comm, Nat.add_mul_div_right _ _ (by positivity), Nat.div_eq_of_lt hlt]
    simp

/-- The address phase of a frame that starts with the bytes of `a`. -/
theorem addressPhase_addrBytes (n a : Nat) (data : List Byte) (h : a < 256 ^ n) :
    addressPhase n (addrBytes n a ++ data) = some (a, data) := by
  rw [addressPhase, if_pos (by simp), List.take_left' (by simp), List.drop_left' (by simp), addrOf_addrBytes,
    Nat.mod_eq_of_lt h]

/-- What an address phase says of the bytes it reads. -/
theorem addressPhase_some (n a : Nat) (rest data : List Byte) (h : addressPhase n rest = some (a, data)) :
    rest = addrBytes n a ++ data := by
  unfold addressPhase at h
  split at h
  · rename_i hn
    injection h with h
    obtain ⟨rfl, rfl⟩ := Prod.mk.inj h
    have := addrBytes_addrOf (rest.take n)
    rw [List.length_take, Nat.min_eq_left hn] at this
    rw [this, List.take_append_drop]
  · cases h

theorem toNat_byteAddrOf (p : Packed) : (byteAddrOf p).toNat = 256 * p.toNat := by
  rw [byteAddrOf, BitVec.toNat_append, Nat.shiftLeft_eq]
  simp
  omega

/-- A packed address as a page's byte address and back (rules R61, R97). -/
@[simp] theorem packedOf_byteAddrOf (p : Packed) : packedOf (byteAddrOf p).toNat = p := by
  rw [toNat_byteAddrOf, packedOf, Nat.mul_div_cancel_left _ (by norm_num)]; simp

@[simp] theorem pageStart_byteAddrOf (p : Packed) : pageStart (byteAddrOf p).toNat = true := by
  have := p.isLt
  rw [toNat_byteAddrOf, pageStart]
  simp only [Bool.and_eq_true, beq_iff_eq, decide_eq_true_eq]
  omega

theorem byteAddrOf_packedOf (a : Nat) (h : pageStart a = true) : (byteAddrOf (packedOf a)).toNat = a := by
  simp only [pageStart, Bool.and_eq_true, beq_iff_eq, decide_eq_true_eq] at h
  rw [toNat_byteAddrOf, packedOf, BitVec.toNat_ofNat]
  omega

/-! ### Request words -/

/-- A request word has its own bit alone. -/
theorem bitAt_requestWord (k j : Task) : bitAt (requestWord k) j = decide (j = k) := by
  revert k j; decide +kernel

/-- The bit of highest priority is a set bit below which no bit is set. -/
theorem lowestBit_some (w : Word) (k : Task) : lowestBit w = some k ↔ bitAt w k = true ∧ ∀ j, j < k → bitAt w j = false := by
  rw [lowestBit, List.find?_eq_some_iff_getElem]
  constructor
  · rintro ⟨h, i, hi, rfl, hb⟩
    refine ⟨by simpa [bitAt] using h, fun j hj => ?_⟩
    have := hb j.val (by simpa [Fin.lt_def] using hj)
    simpa [bitAt] using this
  · rintro ⟨h, hb⟩
    refine ⟨h, k.val, by simp, by simp, fun j hj => ?_⟩
    have := hb ⟨j, by omega⟩ hj
    simpa [bitAt] using this

theorem lowestBit_none (w : Word) : lowestBit w = none ↔ ∀ k, bitAt w k = false := by
  simp [lowestBit, bitAt]

@[simp] theorem lowestBit_requestWord (k : Task) : lowestBit (requestWord k) = some k := by
  rw [lowestBit_some]
  simp only [bitAt_requestWord]
  exact ⟨by simp, fun j hj => by simp [Fin.ne_of_lt hj]⟩

/-- Each request's row is the instruction of its bit. -/
theorem requestInstrs_task (i : Instr) (k : Task) (h : i.task = some k) : requestInstrs.get k = i := by
  cases i <;> simp [Instr.task] at h <;> subst h <;> rfl

/-- Equal words are words with equal bits. -/
theorem word_ext {v w : Word} (h : ∀ k, bitAt v k = bitAt w k) : v = w := by
  ext i hi; exact h ⟨i, hi⟩

@[simp] theorem bitAt_setBit (w : Word) (k j : Task) : bitAt (setBit w k) j = (bitAt w j || decide (j = k)) := by
  rw [setBit, bitAt, BitVec.getLsbD_or]; exact congrArg _ (bitAt_requestWord k j)
@[simp] theorem bitAt_clearBit (w : Word) (k j : Task) : bitAt (clearBit w k) j = (bitAt w j && !decide (j = k)) := by
  rw [clearBit, bitAt, BitVec.getLsbD_and, BitVec.getLsbD_not]
  simp [← bitAt_requestWord k j, bitAt]
@[simp] theorem bitAt_pendingWord (r a : Word) (j : Task) : bitAt (pendingWord r a) j = (bitAt r j && !bitAt a j) := by
  simp [pendingWord, bitAt]
@[simp] theorem bitAt_releasedAck (r a : Word) (j : Task) : bitAt (releasedAck r a) j = (bitAt a j && bitAt r j) := by
  simp [releasedAck, bitAt]

end Sys2Proof
end

