-- ==== Sys2Proof/Laws/Memory.lean ====
section
/-! SUPPORT. The laws of the sparse stores and the device arrays: a read after a write, what a write leaves alone, and
the canonical form that every memory operation keeps. -/

namespace Sys2Proof.Machine

section store
variable {β : Type} (d : β)

theorem storeRead_filter (m : List (Nat × β)) (keep : Nat → Bool) (x : Nat) :
    storeRead d (m.filter fun p => keep p.1) x = if keep x then storeRead d m x else d := by
  induction m with
  | nil => simp [storeRead]
  | cons p rest ih =>
    obtain ⟨a, v⟩ := p
    by_cases hk : keep a = true
    · simp only [List.filter_cons, hk, if_true, storeRead]
      by_cases hx : x = a
      · simp [hx, hk]
      · simp [hx, ih]
    · rw [List.filter_cons_of_neg (by simpa using hk), ih]
      by_cases hx : x = a
      · simp [hx, hk]
      · simp [hx, storeRead]

theorem storeRead_insert (m : List (Nat × β)) (a : Nat) (v : β) (x : Nat) (h : ∀ p ∈ m, p.1 ≠ a) :
    storeRead d (storeInsert m a v) x = if x = a then v else storeRead d m x := by
  induction m with
  | nil => simp [storeInsert, storeRead]
  | cons p rest ih =>
    obtain ⟨b, w⟩ := p
    have hb : b ≠ a := h (b, w) (by simp)
    have ih' := ih fun q hq => h q (by simp [hq])
    by_cases hab : a < b
    · simp [storeInsert, hab, storeRead]
    · simp only [storeInsert, hab, if_false, storeRead, ih']
      by_cases hx : x = b
      · simp [hx, hb]
      · simp [hx]

variable [DecidableEq β]

/-- A read after a write: the written key holds the written value, every other key what it held. -/
theorem storeRead_write (m : List (Nat × β)) (a : Nat) (v : β) (x : Nat) :
    storeRead d (storeWrite d m a v) x = if x = a then v else storeRead d m x := by
  have hf := storeRead_filter d m (fun y => y != a) x
  by_cases hv : v = d
  · simp only [storeWrite, hv, if_true]
    rw [hf]
    by_cases hx : x = a <;> simp [hx]
  · simp only [storeWrite, hv, if_false]
    rw [storeRead_insert d _ a v x (by simp), hf]
    by_cases hx : x = a <;> simp [hx]

theorem storeWf_cons (size a : Nat) (v : β) (rest : List (Nat × β)) :
    storeWf d size ((a, v) :: rest) = true ↔
      a < size ∧ v ≠ d ∧ (∀ p ∈ rest, a < p.1) ∧ storeWf d size rest = true := by
  simp [storeWf, and_assoc]

theorem storeWf_filter (size : Nat) (m : List (Nat × β)) (keep : Nat × β → Bool) (h : storeWf d size m = true) :
    storeWf d size (m.filter keep) = true := by
  induction m with
  | nil => simpa using h
  | cons p rest ih =>
    obtain ⟨a, v⟩ := p
    rw [storeWf_cons] at h
    by_cases hk : keep (a, v) = true
    · rw [List.filter_cons_of_pos hk, storeWf_cons]
      exact ⟨h.1, h.2.1, fun q hq => h.2.2.1 q (List.mem_of_mem_filter hq), ih h.2.2.2⟩
    · rw [List.filter_cons_of_neg hk]
      exact ih h.2.2.2

theorem mem_storeInsert (m : List (Nat × β)) (a : Nat) (v : β) (p : Nat × β) :
    p ∈ storeInsert m a v ↔ p = (a, v) ∨ p ∈ m := by
  induction m with
  | nil => simp [storeInsert]
  | cons q rest ih =>
    obtain ⟨b, w⟩ := q
    by_cases hab : a < b
    · simp [storeInsert, hab]
    · simp only [storeInsert, hab, if_false, List.mem_cons, ih]
      tauto

theorem storeWf_insert (size : Nat) (m : List (Nat × β)) (a : Nat) (v : β) (h : storeWf d size m = true)
    (ha : a < size) (hv : v ≠ d) (hn : ∀ p ∈ m, p.1 ≠ a) : storeWf d size (storeInsert m a v) = true := by
  induction m with
  | nil => simp [storeInsert, storeWf, ha, hv]
  | cons q rest ih =>
    obtain ⟨b, w⟩ := q
    have h' := (storeWf_cons d size b w rest).mp h
    have hb : b ≠ a := hn (b, w) (by simp)
    by_cases hab : a < b
    · simp only [storeInsert, hab, if_true]
      rw [storeWf_cons]
      refine ⟨ha, hv, fun p hp => ?_, h⟩
      rcases List.mem_cons.mp hp with rfl | hp
      · exact hab
      · exact lt_trans hab (h'.2.2.1 p hp)
    · simp only [storeInsert, hab, if_false]
      rw [storeWf_cons]
      refine ⟨h'.1, h'.2.1, fun p hp => ?_, ih h'.2.2.2 fun p hp => hn p (by simp [hp])⟩
      rcases (mem_storeInsert rest a v p).mp hp with rfl | hp
      · show b < a
        omega
      · exact h'.2.2.1 p hp

/-- A write keeps the canonical form. -/
theorem storeWf_write (size : Nat) (m : List (Nat × β)) (a : Nat) (v : β) (h : storeWf d size m = true)
    (ha : a < size) : storeWf d size (storeWrite d m a v) = true := by
  have hf := storeWf_filter d size m (fun p => p.1 != a) h
  by_cases hv : v = d
  · simpa [storeWrite, hv] using hf
  · simp only [storeWrite, hv, if_false]
    exact storeWf_insert d size _ a v hf ha hv (by simp)

theorem mem_storeWrite (m : List (Nat × β)) (a : Nat) (v : β) (p : Nat × β) (h : p ∈ storeWrite d m a v) :
    p = (a, v) ∨ p ∈ m := by
  by_cases hv : v = d
  · simp only [storeWrite, hv, if_true] at h
    exact .inr (List.mem_of_mem_filter h)
  · simp only [storeWrite, hv, if_false] at h
    exact ((mem_storeInsert _ a v p).mp h).imp id List.mem_of_mem_filter

end store

/-! ### Device arrays -/

theorem read_write (m : Memory) (a : Nat) (b : Byte) (x : Nat) :
    (m.write a b).read x = if x = a then b else m.read x := storeRead_write _ m a b x

theorem wf_write (size : Nat) (m : Memory) (a : Nat) (b : Byte) (h : m.wf size = true) (ha : a < size) :
    (m.write a b).wf size = true := storeWf_write _ size m a b h ha

/-- An erase leaves all-ones in its range and every other byte alone. -/
theorem read_erase (m : Memory) (a n x : Nat) :
    (m.erase a n).read x = if a ≤ x ∧ x < a + n then Config.blankByte else m.read x := by
  have := storeRead_filter Config.blankByte m (fun y => !(decide (a ≤ y) && decide (y < a + n))) x
  unfold Memory.erase Memory.read
  rw [this]
  by_cases h : a ≤ x ∧ x < a + n
  · simp [h.1, h.2]
  · rw [if_neg h, if_pos]
    have : x < a ∨ a + n ≤ x := by omega
    simpa using this

theorem wf_erase (size : Nat) (m : Memory) (a n : Nat) (h : m.wf size = true) : (m.erase a n).wf size = true :=
  storeWf_filter _ size m _ h

/-- A program leaves every byte outside its range alone. -/
theorem read_program_outside (mode : ProgMode) (bytes : List Byte) :
    ∀ (m : Memory) (a x : Nat), ¬(a ≤ x ∧ x < a + bytes.length) → (m.program mode a bytes).read x = m.read x := by
  induction bytes with
  | nil => intros; rfl
  | cons b rest ih =>
    intro m a x hx
    simp only [List.length_cons] at hx
    simp only [Memory.program]
    rw [ih _ _ _ (by omega), read_write, if_neg (by omega)]

/-- What a program leaves in each byte of its range (rule R73). -/
theorem read_program_inside (mode : ProgMode) (bytes : List Byte) :
    ∀ (m : Memory) (a i : Nat) (h : i < bytes.length),
      (m.program mode a bytes).read (a + i) = programByte mode (m.read (a + i)) bytes[i] := by
  induction bytes with
  | nil => intro _ _ i h; simp at h
  | cons b rest ih =>
    intro m a i h
    simp only [Memory.program]
    cases i with
    | zero => rw [read_program_outside _ _ _ _ _ (by omega), read_write]; simp
    | succ j =>
      have := ih (m.write a (programByte mode (m.read a) b)) (a + 1) j (by simpa using h)
      rw [show a + (j + 1) = a + 1 + j by omega, this, read_write, if_neg (by omega)]
      rfl

theorem wf_program (mode : ProgMode) (size : Nat) (bytes : List Byte) :
    ∀ (m : Memory) (a : Nat), m.wf size = true → a + bytes.length ≤ size → (m.program mode a bytes).wf size = true := by
  induction bytes with
  | nil => intro m a h _; exact h
  | cons b rest ih =>
    intro m a h hs
    simp only [List.length_cons] at hs
    exact ih _ _ (wf_write size m a _ h (by omega)) (by omega)

/-- A wrapped write leaves alone every byte it does not address. -/
theorem read_writeWrap_outside (size : Nat) (bytes : List Byte) :
    ∀ (m : Memory) (a x : Nat), (∀ i < bytes.length, (a + i) % size ≠ x) →
      (m.writeWrap size a bytes).read x = m.read x := by
  induction bytes with
  | nil => intros; rfl
  | cons b rest ih =>
    intro m a x hx
    simp only [Memory.writeWrap]
    rw [ih _ _ _ fun i hi => by
        have := hx (i + 1) (by simpa using hi)
        rwa [show a + 1 + i = a + (i + 1) by omega],
      read_write, if_neg fun e => hx 0 (by simp) (by simpa using e.symm)]

theorem mod_add_inj {size a i j : Nat} (hi : i < size) (hj : j < size) (h : (a + i) % size = (a + j) % size) :
    i = j := by
  have h' : (i : Nat) ≡ j [MOD size] := Nat.ModEq.add_left_cancel' a h
  exact Nat.ModEq.eq_of_lt_of_lt h' hi hj

/-- What a wrapped write leaves in a byte it addresses: the last of the bytes that fall on it (rule R77). -/
theorem read_writeWrap_last (size : Nat) (bytes : List Byte) :
    ∀ (m : Memory) (a i : Nat) (h : i < bytes.length),
      (∀ j, i < j → j < bytes.length → (a + j) % size ≠ (a + i) % size) →
      (m.writeWrap size a bytes).read ((a + i) % size) = bytes[i] := by
  induction bytes with
  | nil => intro _ _ i h; simp at h
  | cons b rest ih =>
    intro m a i h hl
    simp only [List.length_cons] at hl h
    simp only [Memory.writeWrap]
    cases i with
    | zero =>
      rw [read_writeWrap_outside _ _ _ _ _ fun j hj e => ?_, read_write]
      · simp
      · refine hl (j + 1) (by omega) (by omega) ?_
        rw [show a + (j + 1) = a + 1 + j by omega]; exact e
    | succ j =>
      have := ih (m.write (a % size) b) (a + 1) j (by omega) fun l h1 h2 => by
        have := hl (l + 1) (by omega) (by omega)
        rwa [show a + (l + 1) = a + 1 + l by omega, show a + (j + 1) = a + 1 + j by omega] at this
      rw [show a + (j + 1) = a + 1 + j by omega, this]
      rfl

/-- What a wrapped write no longer than the array leaves in each byte it addresses. -/
theorem read_writeWrap_inside (size : Nat) (bytes : List Byte) (m : Memory) (a i : Nat) (h : i < bytes.length)
    (hs : bytes.length ≤ size) : (m.writeWrap size a bytes).read ((a + i) % size) = bytes[i] :=
  read_writeWrap_last size bytes m a i h fun j h1 h2 e => by
    have := mod_add_inj (a := a) (by omega) (by omega) e
    omega

theorem wf_writeWrap (size : Nat) (hs : 0 < size) (bytes : List Byte) :
    ∀ (m : Memory) (a : Nat), m.wf size = true → (m.writeWrap size a bytes).wf size = true := by
  induction bytes with
  | nil => intro m a h; exact h
  | cons b rest ih => intro m a h; exact ih _ _ (wf_write size m _ b h (Nat.mod_lt _ hs))

@[simp] theorem length_freeBytes (c n : Nat) : (freeBytes c n).length = n := by simp [freeBytes]

/-- Bytes of unspecified value stay inside their range. -/
theorem read_scramble_outside (size : Nat) (m : Memory) (a n c x : Nat) (h : ∀ i < n, (a + i) % size ≠ x) :
    (m.scramble size a n c).read x = m.read x :=
  read_writeWrap_outside size _ m a x (by simpa using h)

theorem wf_scramble (size : Nat) (hs : 0 < size) (m : Memory) (a n c : Nat) (h : m.wf size = true) :
    (m.scramble size a n c).wf size = true := wf_writeWrap size hs _ m a h

@[simp] theorem length_readWrap (size : Nat) (m : Memory) (a n : Nat) : (m.readWrap size a n).length = n := by
  simp [Memory.readWrap]

theorem getElem_readWrap (size : Nat) (m : Memory) (a n i : Nat) (h : i < (m.readWrap size a n).length) :
    (m.readWrap size a n)[i] = m.read ((a + i) % size) := by simp [Memory.readWrap]

/-- Reading back what a wrapped write wrote. -/
theorem readWrap_writeWrap (size : Nat) (m : Memory) (a : Nat) (bytes : List Byte) (h : bytes.length ≤ size) :
    (m.writeWrap size a bytes).readWrap size a bytes.length = bytes := by
  apply List.ext_getElem (by simp)
  intro i h1 h2
  rw [getElem_readWrap, read_writeWrap_inside size bytes m a i h2 h]

/-- Two arrays that agree on the bytes a read addresses give the same data. -/
theorem readWrap_congr (size : Nat) (m m' : Memory) (a n : Nat)
    (h : ∀ i < n, m.read ((a + i) % size) = m'.read ((a + i) % size)) :
    m.readWrap size a n = m'.readWrap size a n := by
  apply List.ext_getElem (by simp)
  intro i h1 h2
  rw [getElem_readWrap, getElem_readWrap]
  exact h i (by simpa using h1)

/-- The completion of an operation inside its page keeps the array's canonical form. -/
theorem wf_apply (p : Params) (op : FlashOp) (m : Memory) (h : m.wf p.flashBytes = true)
    (hp : ∀ a bytes, op = .program a bytes → a.toNat + bytes.length ≤ p.flashBytes) :
    (op.apply p m).wf p.flashBytes = true := by
  cases op with
  | program a bytes => exact wf_program p.progMode _ bytes m _ h (hp a bytes rfl)
  | eraseSector sec => exact wf_erase _ m _ _ h
  | eraseBlock blk => exact wf_erase _ m _ _ h

/-! ### The ring -/

@[simp] theorem length_fitSample (words : Nat) (v : Sample) : (fitSample words v).length = words := by
  simp [fitSample]

/-- A push changes the slot at RING_W alone (rule R46). -/
theorem read_push (size words : Nat) (r : Ring) (v : Sample) (slot : Nat) :
    (r.push size words v).read words slot = if slot = r.w.toNat then fitSample words v else r.read words slot :=
  storeRead_write _ r.slots r.w.toNat (fitSample words v) slot

end Sys2Proof.Machine
end

