-- ==== Sys2Proof/Laws/State.lean ====
section
/-! SUPPORT. One lemma per field per setter of the state, and the laws of the context vector. -/

namespace Sys2Proof.Machine

@[simp] theorem setReq_cfg (s : State) (v : Word) : (s.setReq v).cfg = s.cfg := rfl
@[simp] theorem setReq_req (s : State) (v : Word) : (s.setReq v).req = v := rfl
@[simp] theorem setReq_ack (s : State) (v : Word) : (s.setReq v).ack = s.ack := rfl
@[simp] theorem setReq_sflt (s : State) (v : Word) : (s.setReq v).sflt = s.sflt := rfl
@[simp] theorem setReq_lockV (s : State) (v : Word) : (s.setReq v).lockV = s.lockV := rfl
@[simp] theorem setReq_lockK (s : State) (v : Word) : (s.setReq v).lockK = s.lockK := rfl
@[simp] theorem setReq_prot (s : State) (v : Word) : (s.setReq v).prot = s.prot := rfl
@[simp] theorem setReq_ctx (s : State) (v : Word) : (s.setReq v).ctx = s.ctx := rfl
@[simp] theorem setReq_ring (s : State) (v : Word) : (s.setReq v).ring = s.ring := rfl
@[simp] theorem setReq_flash (s : State) (v : Word) : (s.setReq v).flash = s.flash := rfl
@[simp] theorem setReq_fram1 (s : State) (v : Word) : (s.setReq v).fram1 = s.fram1 := rfl
@[simp] theorem setReq_fram2 (s : State) (v : Word) : (s.setReq v).fram2 = s.fram2 := rfl
@[simp] theorem setReq_port (s : State) (v : Word) : (s.setReq v).port = s.port := rfl
@[simp] theorem setReq_env (s : State) (v : Word) : (s.setReq v).env = s.env := rfl

@[simp] theorem setAck_cfg (s : State) (v : Word) : (s.setAck v).cfg = s.cfg := rfl
@[simp] theorem setAck_req (s : State) (v : Word) : (s.setAck v).req = s.req := rfl
@[simp] theorem setAck_ack (s : State) (v : Word) : (s.setAck v).ack = v := rfl
@[simp] theorem setAck_sflt (s : State) (v : Word) : (s.setAck v).sflt = s.sflt := rfl
@[simp] theorem setAck_lockV (s : State) (v : Word) : (s.setAck v).lockV = s.lockV := rfl
@[simp] theorem setAck_lockK (s : State) (v : Word) : (s.setAck v).lockK = s.lockK := rfl
@[simp] theorem setAck_prot (s : State) (v : Word) : (s.setAck v).prot = s.prot := rfl
@[simp] theorem setAck_ctx (s : State) (v : Word) : (s.setAck v).ctx = s.ctx := rfl
@[simp] theorem setAck_ring (s : State) (v : Word) : (s.setAck v).ring = s.ring := rfl
@[simp] theorem setAck_flash (s : State) (v : Word) : (s.setAck v).flash = s.flash := rfl
@[simp] theorem setAck_fram1 (s : State) (v : Word) : (s.setAck v).fram1 = s.fram1 := rfl
@[simp] theorem setAck_fram2 (s : State) (v : Word) : (s.setAck v).fram2 = s.fram2 := rfl
@[simp] theorem setAck_port (s : State) (v : Word) : (s.setAck v).port = s.port := rfl
@[simp] theorem setAck_env (s : State) (v : Word) : (s.setAck v).env = s.env := rfl

@[simp] theorem setSflt_cfg (s : State) (v : Word) : (s.setSflt v).cfg = s.cfg := rfl
@[simp] theorem setSflt_req (s : State) (v : Word) : (s.setSflt v).req = s.req := rfl
@[simp] theorem setSflt_ack (s : State) (v : Word) : (s.setSflt v).ack = s.ack := rfl
@[simp] theorem setSflt_sflt (s : State) (v : Word) : (s.setSflt v).sflt = v := rfl
@[simp] theorem setSflt_lockV (s : State) (v : Word) : (s.setSflt v).lockV = s.lockV := rfl
@[simp] theorem setSflt_lockK (s : State) (v : Word) : (s.setSflt v).lockK = s.lockK := rfl
@[simp] theorem setSflt_prot (s : State) (v : Word) : (s.setSflt v).prot = s.prot := rfl
@[simp] theorem setSflt_ctx (s : State) (v : Word) : (s.setSflt v).ctx = s.ctx := rfl
@[simp] theorem setSflt_ring (s : State) (v : Word) : (s.setSflt v).ring = s.ring := rfl
@[simp] theorem setSflt_flash (s : State) (v : Word) : (s.setSflt v).flash = s.flash := rfl
@[simp] theorem setSflt_fram1 (s : State) (v : Word) : (s.setSflt v).fram1 = s.fram1 := rfl
@[simp] theorem setSflt_fram2 (s : State) (v : Word) : (s.setSflt v).fram2 = s.fram2 := rfl
@[simp] theorem setSflt_port (s : State) (v : Word) : (s.setSflt v).port = s.port := rfl
@[simp] theorem setSflt_env (s : State) (v : Word) : (s.setSflt v).env = s.env := rfl

@[simp] theorem takeLock_cfg (s : State) (k : Task) : (s.takeLock k).cfg = s.cfg := rfl
@[simp] theorem takeLock_req (s : State) (k : Task) : (s.takeLock k).req = s.req := rfl
@[simp] theorem takeLock_ack (s : State) (k : Task) : (s.takeLock k).ack = s.ack := rfl
@[simp] theorem takeLock_sflt (s : State) (k : Task) : (s.takeLock k).sflt = s.sflt := rfl
@[simp] theorem takeLock_lockV (s : State) (k : Task) : (s.takeLock k).lockV = true := rfl
@[simp] theorem takeLock_lockK (s : State) (k : Task) : (s.takeLock k).lockK = k := rfl
@[simp] theorem takeLock_prot (s : State) (k : Task) : (s.takeLock k).prot = s.prot := rfl
@[simp] theorem takeLock_ctx (s : State) (k : Task) : (s.takeLock k).ctx = s.ctx := rfl
@[simp] theorem takeLock_ring (s : State) (k : Task) : (s.takeLock k).ring = s.ring := rfl
@[simp] theorem takeLock_flash (s : State) (k : Task) : (s.takeLock k).flash = s.flash := rfl
@[simp] theorem takeLock_fram1 (s : State) (k : Task) : (s.takeLock k).fram1 = s.fram1 := rfl
@[simp] theorem takeLock_fram2 (s : State) (k : Task) : (s.takeLock k).fram2 = s.fram2 := rfl
@[simp] theorem takeLock_port (s : State) (k : Task) : (s.takeLock k).port = s.port := rfl
@[simp] theorem takeLock_env (s : State) (k : Task) : (s.takeLock k).env = s.env := rfl

@[simp] theorem dropLock_cfg (s : State) : (s.dropLock).cfg = s.cfg := rfl
@[simp] theorem dropLock_req (s : State) : (s.dropLock).req = s.req := rfl
@[simp] theorem dropLock_ack (s : State) : (s.dropLock).ack = s.ack := rfl
@[simp] theorem dropLock_sflt (s : State) : (s.dropLock).sflt = s.sflt := rfl
@[simp] theorem dropLock_lockV (s : State) : (s.dropLock).lockV = false := rfl
@[simp] theorem dropLock_lockK (s : State) : (s.dropLock).lockK = s.lockK := rfl
@[simp] theorem dropLock_prot (s : State) : (s.dropLock).prot = s.prot := rfl
@[simp] theorem dropLock_ctx (s : State) : (s.dropLock).ctx = s.ctx := rfl
@[simp] theorem dropLock_ring (s : State) : (s.dropLock).ring = s.ring := rfl
@[simp] theorem dropLock_flash (s : State) : (s.dropLock).flash = s.flash := rfl
@[simp] theorem dropLock_fram1 (s : State) : (s.dropLock).fram1 = s.fram1 := rfl
@[simp] theorem dropLock_fram2 (s : State) : (s.dropLock).fram2 = s.fram2 := rfl
@[simp] theorem dropLock_port (s : State) : (s.dropLock).port = s.port := rfl
@[simp] theorem dropLock_env (s : State) : (s.dropLock).env = s.env := rfl

@[simp] theorem setProt_cfg (s : State) (b : Bool) : (s.setProt b).cfg = s.cfg := rfl
@[simp] theorem setProt_req (s : State) (b : Bool) : (s.setProt b).req = s.req := rfl
@[simp] theorem setProt_ack (s : State) (b : Bool) : (s.setProt b).ack = s.ack := rfl
@[simp] theorem setProt_sflt (s : State) (b : Bool) : (s.setProt b).sflt = s.sflt := rfl
@[simp] theorem setProt_lockV (s : State) (b : Bool) : (s.setProt b).lockV = s.lockV := rfl
@[simp] theorem setProt_lockK (s : State) (b : Bool) : (s.setProt b).lockK = s.lockK := rfl
@[simp] theorem setProt_prot (s : State) (b : Bool) : (s.setProt b).prot = b := rfl
@[simp] theorem setProt_ctx (s : State) (b : Bool) : (s.setProt b).ctx = s.ctx := rfl
@[simp] theorem setProt_ring (s : State) (b : Bool) : (s.setProt b).ring = s.ring := rfl
@[simp] theorem setProt_flash (s : State) (b : Bool) : (s.setProt b).flash = s.flash := rfl
@[simp] theorem setProt_fram1 (s : State) (b : Bool) : (s.setProt b).fram1 = s.fram1 := rfl
@[simp] theorem setProt_fram2 (s : State) (b : Bool) : (s.setProt b).fram2 = s.fram2 := rfl
@[simp] theorem setProt_port (s : State) (b : Bool) : (s.setProt b).port = s.port := rfl
@[simp] theorem setProt_env (s : State) (b : Bool) : (s.setProt b).env = s.env := rfl

@[simp] theorem setCtx_cfg (s : State) (k : Task) (c : Ctx) : (s.setCtx k c).cfg = s.cfg := rfl
@[simp] theorem setCtx_req (s : State) (k : Task) (c : Ctx) : (s.setCtx k c).req = s.req := rfl
@[simp] theorem setCtx_ack (s : State) (k : Task) (c : Ctx) : (s.setCtx k c).ack = s.ack := rfl
@[simp] theorem setCtx_sflt (s : State) (k : Task) (c : Ctx) : (s.setCtx k c).sflt = s.sflt := rfl
@[simp] theorem setCtx_lockV (s : State) (k : Task) (c : Ctx) : (s.setCtx k c).lockV = s.lockV := rfl
@[simp] theorem setCtx_lockK (s : State) (k : Task) (c : Ctx) : (s.setCtx k c).lockK = s.lockK := rfl
@[simp] theorem setCtx_prot (s : State) (k : Task) (c : Ctx) : (s.setCtx k c).prot = s.prot := rfl
@[simp] theorem setCtx_ctx (s : State) (k : Task) (c : Ctx) : (s.setCtx k c).ctx = s.ctx.set k.val c := rfl
@[simp] theorem setCtx_ring (s : State) (k : Task) (c : Ctx) : (s.setCtx k c).ring = s.ring := rfl
@[simp] theorem setCtx_flash (s : State) (k : Task) (c : Ctx) : (s.setCtx k c).flash = s.flash := rfl
@[simp] theorem setCtx_fram1 (s : State) (k : Task) (c : Ctx) : (s.setCtx k c).fram1 = s.fram1 := rfl
@[simp] theorem setCtx_fram2 (s : State) (k : Task) (c : Ctx) : (s.setCtx k c).fram2 = s.fram2 := rfl
@[simp] theorem setCtx_port (s : State) (k : Task) (c : Ctx) : (s.setCtx k c).port = s.port := rfl
@[simp] theorem setCtx_env (s : State) (k : Task) (c : Ctx) : (s.setCtx k c).env = s.env := rfl

@[simp] theorem setRing_cfg (s : State) (r : Ring) : (s.setRing r).cfg = s.cfg := rfl
@[simp] theorem setRing_req (s : State) (r : Ring) : (s.setRing r).req = s.req := rfl
@[simp] theorem setRing_ack (s : State) (r : Ring) : (s.setRing r).ack = s.ack := rfl
@[simp] theorem setRing_sflt (s : State) (r : Ring) : (s.setRing r).sflt = s.sflt := rfl
@[simp] theorem setRing_lockV (s : State) (r : Ring) : (s.setRing r).lockV = s.lockV := rfl
@[simp] theorem setRing_lockK (s : State) (r : Ring) : (s.setRing r).lockK = s.lockK := rfl
@[simp] theorem setRing_prot (s : State) (r : Ring) : (s.setRing r).prot = s.prot := rfl
@[simp] theorem setRing_ctx (s : State) (r : Ring) : (s.setRing r).ctx = s.ctx := rfl
@[simp] theorem setRing_ring (s : State) (r : Ring) : (s.setRing r).ring = r := rfl
@[simp] theorem setRing_flash (s : State) (r : Ring) : (s.setRing r).flash = s.flash := rfl
@[simp] theorem setRing_fram1 (s : State) (r : Ring) : (s.setRing r).fram1 = s.fram1 := rfl
@[simp] theorem setRing_fram2 (s : State) (r : Ring) : (s.setRing r).fram2 = s.fram2 := rfl
@[simp] theorem setRing_port (s : State) (r : Ring) : (s.setRing r).port = s.port := rfl
@[simp] theorem setRing_env (s : State) (r : Ring) : (s.setRing r).env = s.env := rfl

@[simp] theorem setFlash_cfg (s : State) (f : Flash) : (s.setFlash f).cfg = s.cfg := rfl
@[simp] theorem setFlash_req (s : State) (f : Flash) : (s.setFlash f).req = s.req := rfl
@[simp] theorem setFlash_ack (s : State) (f : Flash) : (s.setFlash f).ack = s.ack := rfl
@[simp] theorem setFlash_sflt (s : State) (f : Flash) : (s.setFlash f).sflt = s.sflt := rfl
@[simp] theorem setFlash_lockV (s : State) (f : Flash) : (s.setFlash f).lockV = s.lockV := rfl
@[simp] theorem setFlash_lockK (s : State) (f : Flash) : (s.setFlash f).lockK = s.lockK := rfl
@[simp] theorem setFlash_prot (s : State) (f : Flash) : (s.setFlash f).prot = s.prot := rfl
@[simp] theorem setFlash_ctx (s : State) (f : Flash) : (s.setFlash f).ctx = s.ctx := rfl
@[simp] theorem setFlash_ring (s : State) (f : Flash) : (s.setFlash f).ring = s.ring := rfl
@[simp] theorem setFlash_flash (s : State) (f : Flash) : (s.setFlash f).flash = f := rfl
@[simp] theorem setFlash_fram1 (s : State) (f : Flash) : (s.setFlash f).fram1 = s.fram1 := rfl
@[simp] theorem setFlash_fram2 (s : State) (f : Flash) : (s.setFlash f).fram2 = s.fram2 := rfl
@[simp] theorem setFlash_port (s : State) (f : Flash) : (s.setFlash f).port = s.port := rfl
@[simp] theorem setFlash_env (s : State) (f : Flash) : (s.setFlash f).env = s.env := rfl

@[simp] theorem setPort_cfg (s : State) (p : Port) : (s.setPort p).cfg = s.cfg := rfl
@[simp] theorem setPort_req (s : State) (p : Port) : (s.setPort p).req = s.req := rfl
@[simp] theorem setPort_ack (s : State) (p : Port) : (s.setPort p).ack = s.ack := rfl
@[simp] theorem setPort_sflt (s : State) (p : Port) : (s.setPort p).sflt = s.sflt := rfl
@[simp] theorem setPort_lockV (s : State) (p : Port) : (s.setPort p).lockV = s.lockV := rfl
@[simp] theorem setPort_lockK (s : State) (p : Port) : (s.setPort p).lockK = s.lockK := rfl
@[simp] theorem setPort_prot (s : State) (p : Port) : (s.setPort p).prot = s.prot := rfl
@[simp] theorem setPort_ctx (s : State) (p : Port) : (s.setPort p).ctx = s.ctx := rfl
@[simp] theorem setPort_ring (s : State) (p : Port) : (s.setPort p).ring = s.ring := rfl
@[simp] theorem setPort_flash (s : State) (p : Port) : (s.setPort p).flash = s.flash := rfl
@[simp] theorem setPort_fram1 (s : State) (p : Port) : (s.setPort p).fram1 = s.fram1 := rfl
@[simp] theorem setPort_fram2 (s : State) (p : Port) : (s.setPort p).fram2 = s.fram2 := rfl
@[simp] theorem setPort_port (s : State) (p : Port) : (s.setPort p).port = p := rfl
@[simp] theorem setPort_env (s : State) (p : Port) : (s.setPort p).env = s.env := rfl

@[simp] theorem setEnv_cfg (s : State) (e : Env) : (s.setEnv e).cfg = s.cfg := rfl
@[simp] theorem setEnv_req (s : State) (e : Env) : (s.setEnv e).req = s.req := rfl
@[simp] theorem setEnv_ack (s : State) (e : Env) : (s.setEnv e).ack = s.ack := rfl
@[simp] theorem setEnv_sflt (s : State) (e : Env) : (s.setEnv e).sflt = s.sflt := rfl
@[simp] theorem setEnv_lockV (s : State) (e : Env) : (s.setEnv e).lockV = s.lockV := rfl
@[simp] theorem setEnv_lockK (s : State) (e : Env) : (s.setEnv e).lockK = s.lockK := rfl
@[simp] theorem setEnv_prot (s : State) (e : Env) : (s.setEnv e).prot = s.prot := rfl
@[simp] theorem setEnv_ctx (s : State) (e : Env) : (s.setEnv e).ctx = s.ctx := rfl
@[simp] theorem setEnv_ring (s : State) (e : Env) : (s.setEnv e).ring = s.ring := rfl
@[simp] theorem setEnv_flash (s : State) (e : Env) : (s.setEnv e).flash = s.flash := rfl
@[simp] theorem setEnv_fram1 (s : State) (e : Env) : (s.setEnv e).fram1 = s.fram1 := rfl
@[simp] theorem setEnv_fram2 (s : State) (e : Env) : (s.setEnv e).fram2 = s.fram2 := rfl
@[simp] theorem setEnv_port (s : State) (e : Env) : (s.setEnv e).port = s.port := rfl
@[simp] theorem setEnv_env (s : State) (e : Env) : (s.setEnv e).env = e := rfl

@[simp] theorem setFram_cfg (s : State) (d : FramSel) (f : Fram) : (s.setFram d f).cfg = s.cfg := by cases d <;> rfl
@[simp] theorem setFram_req (s : State) (d : FramSel) (f : Fram) : (s.setFram d f).req = s.req := by cases d <;> rfl
@[simp] theorem setFram_ack (s : State) (d : FramSel) (f : Fram) : (s.setFram d f).ack = s.ack := by cases d <;> rfl
@[simp] theorem setFram_sflt (s : State) (d : FramSel) (f : Fram) : (s.setFram d f).sflt = s.sflt := by cases d <;> rfl
@[simp] theorem setFram_lockV (s : State) (d : FramSel) (f : Fram) : (s.setFram d f).lockV = s.lockV := by cases d <;> rfl
@[simp] theorem setFram_lockK (s : State) (d : FramSel) (f : Fram) : (s.setFram d f).lockK = s.lockK := by cases d <;> rfl
@[simp] theorem setFram_prot (s : State) (d : FramSel) (f : Fram) : (s.setFram d f).prot = s.prot := by cases d <;> rfl
@[simp] theorem setFram_ctx (s : State) (d : FramSel) (f : Fram) : (s.setFram d f).ctx = s.ctx := by cases d <;> rfl
@[simp] theorem setFram_ring (s : State) (d : FramSel) (f : Fram) : (s.setFram d f).ring = s.ring := by cases d <;> rfl
@[simp] theorem setFram_flash (s : State) (d : FramSel) (f : Fram) : (s.setFram d f).flash = s.flash := by cases d <;> rfl
@[simp] theorem setFram_port (s : State) (d : FramSel) (f : Fram) : (s.setFram d f).port = s.port := by cases d <;> rfl
@[simp] theorem setFram_env (s : State) (d : FramSel) (f : Fram) : (s.setFram d f).env = s.env := by cases d <;> rfl
@[simp] theorem setFram_fram_self (s : State) (d : FramSel) (f : Fram) : (s.setFram d f).fram d = f := by cases d <;> rfl
theorem setFram_fram_ne (s : State) (d e : FramSel) (f : Fram) (h : e ≠ d) : (s.setFram d f).fram e = s.fram e := by
  cases d <;> cases e <;> first | rfl | exact absurd rfl h

/-! ### Contexts -/

@[simp] theorem ctxAt_setCtx_self (s : State) (k : Task) (c : Ctx) : (s.setCtx k c).ctxAt k = c := by
  simp [State.ctxAt, State.setCtx, Vector.get_eq_getElem]

theorem ctxAt_setCtx_ne (s : State) (k j : Task) (c : Ctx) (h : j ≠ k) : (s.setCtx k c).ctxAt j = s.ctxAt j := by
  have h' : k.val ≠ j.val := fun e => h (Fin.ext e.symm)
  simp [State.ctxAt, State.setCtx, Vector.get_eq_getElem, h']

theorem ctxAt_setCtx (s : State) (k j : Task) (c : Ctx) :
    (s.setCtx k c).ctxAt j = if j = k then c else s.ctxAt j := by
  by_cases h : j = k
  · subst h; simp
  · simp [h, ctxAt_setCtx_ne]

@[simp] theorem ctxAt_modCtx_self (s : State) (k : Task) (f : Ctx → Ctx) : (s.modCtx k f).ctxAt k = f (s.ctxAt k) := by
  simp [State.modCtx]

theorem ctxAt_modCtx (s : State) (k j : Task) (f : Ctx → Ctx) :
    (s.modCtx k f).ctxAt j = if j = k then f (s.ctxAt k) else s.ctxAt j := by
  simp [State.modCtx, ctxAt_setCtx]

/-- The context vector decides every context. -/
theorem ctxAt_congr {s t : State} (h : t.ctx = s.ctx) (k : Task) : t.ctxAt k = s.ctxAt k := by
  simp [State.ctxAt, h]

@[simp] theorem setCtx_setCtx (s : State) (k : Task) (c d : Ctx) : (s.setCtx k c).setCtx k d = s.setCtx k d := by
  simp [State.setCtx, Vector.set_set]

@[simp] theorem ctxAt_setReq (s : State) (v : Word) (j : Task) : (s.setReq v).ctxAt j = s.ctxAt j := rfl
@[simp] theorem ctxAt_setAck (s : State) (v : Word) (j : Task) : (s.setAck v).ctxAt j = s.ctxAt j := rfl
@[simp] theorem ctxAt_setSflt (s : State) (v : Word) (j : Task) : (s.setSflt v).ctxAt j = s.ctxAt j := rfl
@[simp] theorem ctxAt_takeLock (s : State) (k : Task) (j : Task) : (s.takeLock k).ctxAt j = s.ctxAt j := rfl
@[simp] theorem ctxAt_dropLock (s : State) (j : Task) : (s.dropLock ).ctxAt j = s.ctxAt j := rfl
@[simp] theorem ctxAt_setProt (s : State) (b : Bool) (j : Task) : (s.setProt b).ctxAt j = s.ctxAt j := rfl
@[simp] theorem ctxAt_setRing (s : State) (r : Ring) (j : Task) : (s.setRing r).ctxAt j = s.ctxAt j := rfl
@[simp] theorem ctxAt_setFlash (s : State) (f : Flash) (j : Task) : (s.setFlash f).ctxAt j = s.ctxAt j := rfl
@[simp] theorem ctxAt_setPort (s : State) (p : Port) (j : Task) : (s.setPort p).ctxAt j = s.ctxAt j := rfl
@[simp] theorem ctxAt_setEnv (s : State) (e : Env) (j : Task) : (s.setEnv e).ctxAt j = s.ctxAt j := rfl
@[simp] theorem ctxAt_setFram (s : State) (d : FramSel) (f : Fram) (j : Task) : (s.setFram d f).ctxAt j = s.ctxAt j := by
  cases d <;> rfl

@[simp] theorem modCtx_cfg (s : State) (k : Task) (f : Ctx → Ctx) : (s.modCtx k f).cfg = s.cfg := rfl
@[simp] theorem modCtx_req (s : State) (k : Task) (f : Ctx → Ctx) : (s.modCtx k f).req = s.req := rfl
@[simp] theorem modCtx_ack (s : State) (k : Task) (f : Ctx → Ctx) : (s.modCtx k f).ack = s.ack := rfl
@[simp] theorem modCtx_sflt (s : State) (k : Task) (f : Ctx → Ctx) : (s.modCtx k f).sflt = s.sflt := rfl
@[simp] theorem modCtx_lockV (s : State) (k : Task) (f : Ctx → Ctx) : (s.modCtx k f).lockV = s.lockV := rfl
@[simp] theorem modCtx_lockK (s : State) (k : Task) (f : Ctx → Ctx) : (s.modCtx k f).lockK = s.lockK := rfl
@[simp] theorem modCtx_prot (s : State) (k : Task) (f : Ctx → Ctx) : (s.modCtx k f).prot = s.prot := rfl
@[simp] theorem modCtx_ring (s : State) (k : Task) (f : Ctx → Ctx) : (s.modCtx k f).ring = s.ring := rfl
@[simp] theorem modCtx_flash (s : State) (k : Task) (f : Ctx → Ctx) : (s.modCtx k f).flash = s.flash := rfl
@[simp] theorem modCtx_fram1 (s : State) (k : Task) (f : Ctx → Ctx) : (s.modCtx k f).fram1 = s.fram1 := rfl
@[simp] theorem modCtx_fram2 (s : State) (k : Task) (f : Ctx → Ctx) : (s.modCtx k f).fram2 = s.fram2 := rfl
@[simp] theorem modCtx_port (s : State) (k : Task) (f : Ctx → Ctx) : (s.modCtx k f).port = s.port := rfl
@[simp] theorem modCtx_env (s : State) (k : Task) (f : Ctx → Ctx) : (s.modCtx k f).env = s.env := rfl

/-! ### Readers that a setter leaves alone -/

@[simp] theorem fram_setReq (s : State) (v : Word) (d : FramSel) : (s.setReq v).fram d = s.fram d := by cases d <;> rfl
@[simp] theorem taskCfg_setReq (s : State) (v : Word) (j : Task) : (s.setReq v).taskCfg j = s.taskCfg j := rfl
@[simp] theorem fram_setAck (s : State) (v : Word) (d : FramSel) : (s.setAck v).fram d = s.fram d := by cases d <;> rfl
@[simp] theorem taskCfg_setAck (s : State) (v : Word) (j : Task) : (s.setAck v).taskCfg j = s.taskCfg j := rfl
@[simp] theorem fram_setSflt (s : State) (v : Word) (d : FramSel) : (s.setSflt v).fram d = s.fram d := by cases d <;> rfl
@[simp] theorem taskCfg_setSflt (s : State) (v : Word) (j : Task) : (s.setSflt v).taskCfg j = s.taskCfg j := rfl
@[simp] theorem fram_takeLock (s : State) (k : Task) (d : FramSel) : (s.takeLock k).fram d = s.fram d := by cases d <;> rfl
@[simp] theorem taskCfg_takeLock (s : State) (k : Task) (j : Task) : (s.takeLock k).taskCfg j = s.taskCfg j := rfl
@[simp] theorem fram_dropLock (s : State) (d : FramSel) : (s.dropLock).fram d = s.fram d := by cases d <;> rfl
@[simp] theorem taskCfg_dropLock (s : State) (j : Task) : (s.dropLock).taskCfg j = s.taskCfg j := rfl
@[simp] theorem fram_setProt (s : State) (b : Bool) (d : FramSel) : (s.setProt b).fram d = s.fram d := by cases d <;> rfl
@[simp] theorem taskCfg_setProt (s : State) (b : Bool) (j : Task) : (s.setProt b).taskCfg j = s.taskCfg j := rfl
@[simp] theorem fram_setCtx (s : State) (k : Task) (c : Ctx) (d : FramSel) : (s.setCtx k c).fram d = s.fram d := by cases d <;> rfl
@[simp] theorem taskCfg_setCtx (s : State) (k : Task) (c : Ctx) (j : Task) : (s.setCtx k c).taskCfg j = s.taskCfg j := rfl
@[simp] theorem fram_setRing (s : State) (r : Ring) (d : FramSel) : (s.setRing r).fram d = s.fram d := by cases d <;> rfl
@[simp] theorem taskCfg_setRing (s : State) (r : Ring) (j : Task) : (s.setRing r).taskCfg j = s.taskCfg j := rfl
@[simp] theorem fram_setFlash (s : State) (f : Flash) (d : FramSel) : (s.setFlash f).fram d = s.fram d := by cases d <;> rfl
@[simp] theorem taskCfg_setFlash (s : State) (f : Flash) (j : Task) : (s.setFlash f).taskCfg j = s.taskCfg j := rfl
@[simp] theorem fram_setPort (s : State) (p : Port) (d : FramSel) : (s.setPort p).fram d = s.fram d := by cases d <;> rfl
@[simp] theorem taskCfg_setPort (s : State) (p : Port) (j : Task) : (s.setPort p).taskCfg j = s.taskCfg j := rfl
@[simp] theorem fram_setEnv (s : State) (e : Env) (d : FramSel) : (s.setEnv e).fram d = s.fram d := by cases d <;> rfl
@[simp] theorem taskCfg_setEnv (s : State) (e : Env) (j : Task) : (s.setEnv e).taskCfg j = s.taskCfg j := rfl
@[simp] theorem fram_modCtx (s : State) (k : Task) (f : Ctx → Ctx) (d : FramSel) : (s.modCtx k f).fram d = s.fram d := by cases d <;> rfl
@[simp] theorem taskCfg_modCtx (s : State) (k : Task) (f : Ctx → Ctx) (j : Task) : (s.modCtx k f).taskCfg j = s.taskCfg j := rfl
@[simp] theorem taskCfg_setFram (s : State) (d : FramSel) (f : Fram) (j : Task) : (s.setFram d f).taskCfg j = s.taskCfg j := by
  cases d <;> rfl

/-- The scan choice depends on REQ and ACK alone. -/
theorem scan_congr {s t : State} (hr : t.req = s.req) (ha : t.ack = s.ack) : t.scan = s.scan := by
  simp [State.scan, hr, ha]

end Sys2Proof.Machine
end

