-- ==== Sys2Proof/Laws/Frames.lean ====
section
/-! SUPPORT. What a frame can do: the engine's own state is left alone, the transport records it, and the device changes as
its rule says. -/

namespace Sys2Proof.Machine

/-! ### Small operations -/

@[simp] theorem setRx_cfg (s : State) (r : Received) : (s.setRx r).cfg = s.cfg := rfl
@[simp] theorem noRx_cfg (s : State) : s.noRx.cfg = s.cfg := rfl
@[simp] theorem useFree_cfg (s : State) (n : Nat) : (s.useFree n).cfg = s.cfg := rfl
@[simp] theorem setRx_req (s : State) (r : Received) : (s.setRx r).req = s.req := rfl
@[simp] theorem noRx_req (s : State) : s.noRx.req = s.req := rfl
@[simp] theorem useFree_req (s : State) (n : Nat) : (s.useFree n).req = s.req := rfl
@[simp] theorem setRx_ack (s : State) (r : Received) : (s.setRx r).ack = s.ack := rfl
@[simp] theorem noRx_ack (s : State) : s.noRx.ack = s.ack := rfl
@[simp] theorem useFree_ack (s : State) (n : Nat) : (s.useFree n).ack = s.ack := rfl
@[simp] theorem setRx_sflt (s : State) (r : Received) : (s.setRx r).sflt = s.sflt := rfl
@[simp] theorem noRx_sflt (s : State) : s.noRx.sflt = s.sflt := rfl
@[simp] theorem useFree_sflt (s : State) (n : Nat) : (s.useFree n).sflt = s.sflt := rfl
@[simp] theorem setRx_lockV (s : State) (r : Received) : (s.setRx r).lockV = s.lockV := rfl
@[simp] theorem noRx_lockV (s : State) : s.noRx.lockV = s.lockV := rfl
@[simp] theorem useFree_lockV (s : State) (n : Nat) : (s.useFree n).lockV = s.lockV := rfl
@[simp] theorem setRx_lockK (s : State) (r : Received) : (s.setRx r).lockK = s.lockK := rfl
@[simp] theorem noRx_lockK (s : State) : s.noRx.lockK = s.lockK := rfl
@[simp] theorem useFree_lockK (s : State) (n : Nat) : (s.useFree n).lockK = s.lockK := rfl
@[simp] theorem setRx_prot (s : State) (r : Received) : (s.setRx r).prot = s.prot := rfl
@[simp] theorem noRx_prot (s : State) : s.noRx.prot = s.prot := rfl
@[simp] theorem useFree_prot (s : State) (n : Nat) : (s.useFree n).prot = s.prot := rfl
@[simp] theorem setRx_ctx (s : State) (r : Received) : (s.setRx r).ctx = s.ctx := rfl
@[simp] theorem noRx_ctx (s : State) : s.noRx.ctx = s.ctx := rfl
@[simp] theorem useFree_ctx (s : State) (n : Nat) : (s.useFree n).ctx = s.ctx := rfl
@[simp] theorem setRx_ring (s : State) (r : Received) : (s.setRx r).ring = s.ring := rfl
@[simp] theorem noRx_ring (s : State) : s.noRx.ring = s.ring := rfl
@[simp] theorem useFree_ring (s : State) (n : Nat) : (s.useFree n).ring = s.ring := rfl
@[simp] theorem setRx_flash (s : State) (r : Received) : (s.setRx r).flash = s.flash := rfl
@[simp] theorem noRx_flash (s : State) : s.noRx.flash = s.flash := rfl
@[simp] theorem useFree_flash (s : State) (n : Nat) : (s.useFree n).flash = s.flash := rfl
@[simp] theorem setRx_fram1 (s : State) (r : Received) : (s.setRx r).fram1 = s.fram1 := rfl
@[simp] theorem noRx_fram1 (s : State) : s.noRx.fram1 = s.fram1 := rfl
@[simp] theorem useFree_fram1 (s : State) (n : Nat) : (s.useFree n).fram1 = s.fram1 := rfl
@[simp] theorem setRx_fram2 (s : State) (r : Received) : (s.setRx r).fram2 = s.fram2 := rfl
@[simp] theorem noRx_fram2 (s : State) : s.noRx.fram2 = s.fram2 := rfl
@[simp] theorem useFree_fram2 (s : State) (n : Nat) : (s.useFree n).fram2 = s.fram2 := rfl
@[simp] theorem setRx_rx (s : State) (r : Received) : (s.setRx r).port.rx = r := rfl
@[simp] theorem setRx_env (s : State) (r : Received) : (s.setRx r).env = s.env := rfl
@[simp] theorem noRx_rx (s : State) : s.noRx.port.rx = .none := rfl
@[simp] theorem noRx_env (s : State) : s.noRx.env = s.env := rfl
@[simp] theorem useFree_port (s : State) (n : Nat) : (s.useFree n).port = s.port := rfl

/-- What every device effect leaves alone: the engine, the wire, the list of frames sent and the other agents' inputs. -/
structure EngineSame (s t : State) : Prop where
  cfg : t.cfg = s.cfg
  req : t.req = s.req
  ack : t.ack = s.ack
  sflt : t.sflt = s.sflt
  lockV : t.lockV = s.lockV
  lockK : t.lockK = s.lockK
  prot : t.prot = s.prot
  ctx : t.ctx = s.ctx
  ring : t.ring = s.ring
  bus : t.port.bus = s.port.bus
  sent : t.port.sent = s.port.sent
  inputs : t.env.inputs = s.env.inputs
  between : t.env.between = s.env.between
  hostData : t.env.hostData = s.env.hostData

theorem engineSame_refl (s : State) : EngineSame s s := by constructor <;> rfl

theorem engineSame_setFlash (s : State) (f : Flash) : EngineSame s (s.setFlash f) := by constructor <;> rfl

theorem engineSame_setFram (s : State) (d : FramSel) (f : Fram) : EngineSame s (s.setFram d f) := by
  cases d <;> constructor <;> rfl

theorem engineSame_setRx (s : State) (r : Received) : EngineSame s (s.setRx r) := by constructor <;> rfl

theorem engineSame_useFree (s : State) (n : Nat) : EngineSame s (s.useFree n) := by constructor <;> rfl

theorem EngineSame.trans {s t u : State} (h : EngineSame s t) (h' : EngineSame t u) : EngineSame s u := by
  constructor
  · exact h'.cfg.trans h.cfg
  · exact h'.req.trans h.req
  · exact h'.ack.trans h.ack
  · exact h'.sflt.trans h.sflt
  · exact h'.lockV.trans h.lockV
  · exact h'.lockK.trans h.lockK
  · exact h'.prot.trans h.prot
  · exact h'.ctx.trans h.ctx
  · exact h'.ring.trans h.ring
  · exact h'.bus.trans h.bus
  · exact h'.sent.trans h.sent
  · exact h'.inputs.trans h.inputs
  · exact h'.between.trans h.between
  · exact h'.hostData.trans h.hostData

theorem engineSame_ite {s a b : State} {c : Prop} [Decidable c] (ha : EngineSame s a) (hb : EngineSame s b) :
    EngineSame s (if c then a else b) := by
  split <;> assumption

theorem EngineSame.noRx {s t : State} (h : EngineSame s t) : EngineSame s t.noRx := h.trans (engineSame_setRx t _)

theorem engineSame_malformed (n : Nat) (s : State) : EngineSame s (malformedFrame n s) :=
  (engineSame_setRx s _).trans (engineSame_useFree _ n)

theorem engineSame_flashCommand (op : FlashOp) (s : State) : EngineSame s (flashCommand op s) :=
  engineSame_ite (engineSame_refl s) (engineSame_ite (engineSame_setFlash s _) (engineSame_setFlash s _))

theorem engineSame_flashProtection (b : Bool) (s : State) : EngineSame s (flashProtection b s) :=
  engineSame_ite (engineSame_refl s) (engineSame_setFlash s _)

/-- A device's effect leaves the engine alone. -/
theorem engineSame_deviceEffect (i : Instr) (s : State) : EngineSame s (deviceEffect i s) := by
  cases i
  case flWren => exact (engineSame_ite (engineSame_refl s) (engineSame_setFlash s _)).noRx
  case flRdsr => exact (engineSame_setRx s _).trans (engineSame_useFree _ 8)
  case flPp p words => exact engineSame_ite (engineSame_flashCommand _ s).noRx (engineSame_malformed 0 s)
  case flSe p => exact (engineSame_flashCommand _ s).noRx
  case flBe p => exact (engineSame_flashCommand _ s).noRx
  case flUlbpr => exact (engineSame_flashProtection _ s).noRx
  case flProtect data => exact (engineSame_flashProtection _ s).noRx
  case flRead a n =>
    exact engineSame_ite (engineSame_ite (engineSame_malformed _ s) (engineSame_setRx s _)) (engineSame_malformed _ s)
  case frWren d => exact (engineSame_setFram s d _).noRx
  case frWrite d a bytes =>
    exact engineSame_ite (engineSame_ite (engineSame_setFram s d _) (engineSame_refl s)).noRx (engineSame_malformed 0 s)
  case frRead d a n => exact engineSame_ite (engineSame_setRx s _) (engineSame_malformed n s)
  all_goals exact engineSame_refl s

/-! ### `transact` -/

@[simp] theorem transact_cfg (i : Instr) (s : State) : (transact i s).cfg = s.cfg :=
  (engineSame_deviceEffect i _).cfg
@[simp] theorem transact_req (i : Instr) (s : State) : (transact i s).req = s.req :=
  (engineSame_deviceEffect i _).req
@[simp] theorem transact_ack (i : Instr) (s : State) : (transact i s).ack = s.ack :=
  (engineSame_deviceEffect i _).ack
@[simp] theorem transact_sflt (i : Instr) (s : State) : (transact i s).sflt = s.sflt :=
  (engineSame_deviceEffect i _).sflt
@[simp] theorem transact_lockV (i : Instr) (s : State) : (transact i s).lockV = s.lockV :=
  (engineSame_deviceEffect i _).lockV
@[simp] theorem transact_lockK (i : Instr) (s : State) : (transact i s).lockK = s.lockK :=
  (engineSame_deviceEffect i _).lockK
@[simp] theorem transact_prot (i : Instr) (s : State) : (transact i s).prot = s.prot :=
  (engineSame_deviceEffect i _).prot
@[simp] theorem transact_ctx (i : Instr) (s : State) : (transact i s).ctx = s.ctx :=
  (engineSame_deviceEffect i _).ctx
@[simp] theorem transact_ring (i : Instr) (s : State) : (transact i s).ring = s.ring :=
  (engineSame_deviceEffect i _).ring
@[simp] theorem transact_bus (i : Instr) (s : State) : (transact i s).port.bus = s.port.bus :=
  (engineSame_deviceEffect i _).bus
@[simp] theorem transact_sent (i : Instr) (s : State) : (transact i s).port.sent = s.port.sent ++ [encodeFrame s.cfg.cmds i] :=
  (engineSame_deviceEffect i _).sent
@[simp] theorem transact_inputs (i : Instr) (s : State) : (transact i s).env.inputs = s.env.inputs :=
  (engineSame_deviceEffect i _).inputs
@[simp] theorem transact_between (i : Instr) (s : State) : (transact i s).env.between = s.env.between :=
  (engineSame_deviceEffect i _).between
@[simp] theorem transact_hostData (i : Instr) (s : State) : (transact i s).env.hostData = s.env.hostData :=
  (engineSame_deviceEffect i _).hostData
@[simp] theorem transact_ctxAt (i : Instr) (s : State) (k : Task) : (transact i s).ctxAt k = s.ctxAt k :=
  ctxAt_congr (transact_ctx i s) k
@[simp] theorem transact_taskCfg (i : Instr) (s : State) (k : Task) : (transact i s).taskCfg k = s.taskCfg k := by
  simp [State.taskCfg]
@[simp] theorem transact_scan (i : Instr) (s : State) : (transact i s).scan = s.scan :=
  scan_congr (transact_req i s) (transact_ack i s)

/-! ### What each device does -/

/-- The Flash after a program or erase command (rules R123-R125). -/
def flashAfter (p : Params) (op : FlashOp) (f : Flash) : Flash :=
  if f.busy || !f.wel then f
  else if f.bp && op.inCal p then { f with wel := false }
  else { f with op := some op, busy := true }

/-- The Flash after a protect or unlock command (rules R126, R127). -/
def flashProtected (b : Bool) (f : Flash) : Flash := if f.busy || !f.wel then f else { f with bp := b, wel := false }

/-- The FRAM `d` after a write frame to FRAM `e` (rules R77, R132). -/
def framAfterWrite (p : Params) (d e : FramSel) (a : FramAddr) (bytes : List Byte) (f : Fram) : Fram :=
  if d = e ∧ f.wel = true then ⟨f.array.writeWrap (p.framBytes d.dev) a.toNat bytes, false⟩ else f

theorem flashCommand_flash (op : FlashOp) (s : State) : (flashCommand op s).flash = flashAfter s.cfg op s.flash := by
  simp only [flashCommand, flashAfter]
  split
  · rfl
  · split <;> rfl

theorem flashCommand_fram (op : FlashOp) (s : State) (d : FramSel) : (flashCommand op s).fram d = s.fram d := by
  simp only [flashCommand]
  split
  · rfl
  · split <;> simp

theorem flashProtection_flash (b : Bool) (s : State) : (flashProtection b s).flash = flashProtected b s.flash := by
  simp only [flashProtection, flashProtected]
  split <;> rfl

theorem flashProtection_fram (b : Bool) (s : State) (d : FramSel) : (flashProtection b s).fram d = s.fram d := by
  simp only [flashProtection]
  split <;> simp

@[simp] theorem setRx_fram (s : State) (r : Received) (d : FramSel) : (s.setRx r).fram d = s.fram d := by
  cases d <;> rfl
@[simp] theorem noRx_fram (s : State) (d : FramSel) : s.noRx.fram d = s.fram d := by cases d <;> rfl
@[simp] theorem useFree_fram (s : State) (n : Nat) (d : FramSel) : (s.useFree n).fram d = s.fram d := by
  cases d <;> rfl
@[simp] theorem malformed_flash (n : Nat) (s : State) : (malformedFrame n s).flash = s.flash := rfl
@[simp] theorem malformed_fram (n : Nat) (s : State) (d : FramSel) : (malformedFrame n s).fram d = s.fram d := by
  cases d <;> rfl

/-- The state that a frame reaches its device in. -/
def sending (i : Instr) (s : State) : State := s.setPort { s.port with sent := s.port.sent ++ [encodeFrame s.cfg.cmds i] }

@[simp] theorem sending_flash (i : Instr) (s : State) : (sending i s).flash = s.flash := rfl
@[simp] theorem sending_cfg (i : Instr) (s : State) : (sending i s).cfg = s.cfg := rfl
@[simp] theorem sending_env (i : Instr) (s : State) : (sending i s).env = s.env := rfl
@[simp] theorem sending_fram (i : Instr) (s : State) (d : FramSel) : (sending i s).fram d = s.fram d := by
  cases d <;> rfl

theorem transact_flWren (s : State) : transact .flWren s = flWren (sending .flWren s) := rfl
theorem transact_flRdsr (s : State) : transact .flRdsr s = flRdsr (sending .flRdsr s) := rfl
theorem transact_flPp (p : Packed) (ws : List Half) (s : State) :
    transact (.flPp p ws) s = flPp p ws (sending (.flPp p ws) s) := rfl
theorem transact_flSe (p : Packed) (s : State) : transact (.flSe p) s = flSe p (sending (.flSe p) s) := rfl
theorem transact_flBe (p : Packed) (s : State) : transact (.flBe p) s = flBe p (sending (.flBe p) s) := rfl
theorem transact_flUlbpr (s : State) : transact .flUlbpr s = flUlbpr (sending .flUlbpr s) := rfl
theorem transact_flProtect (bs : List Byte) (s : State) :
    transact (.flProtect bs) s = flProtect bs (sending (.flProtect bs) s) := rfl
theorem transact_flRead (a : FlashAddr) (n : Nat) (s : State) :
    transact (.flRead a n) s = flRead a n (sending (.flRead a n) s) := rfl
theorem transact_frWren (d : FramSel) (s : State) : transact (.frWren d) s = frWren d (sending (.frWren d) s) := rfl
theorem transact_frWrite (d : FramSel) (a : FramAddr) (bs : List Byte) (s : State) :
    transact (.frWrite d a bs) s = frWrite d a bs (sending (.frWrite d a bs) s) := rfl
theorem transact_frRead (d : FramSel) (a : FramAddr) (n : Nat) (s : State) :
    transact (.frRead d a n) s = frRead d a n (sending (.frRead d a n) s) := rfl

@[simp] theorem flWren_flash (s : State) :
    (transact .flWren s).flash = (if s.flash.busy then s.flash else { s.flash with wel := true }) := by
  simp only [transact_flWren, flWren]
  split <;> simp_all

@[simp] theorem flRdsr_flash (s : State) :
    (transact .flRdsr s).flash = s.flash := by
  simp only [transact_flRdsr, flRdsr]
  rfl

@[simp] theorem flPp_flash (p : Packed) (ws : List Half) (s : State) :
    (transact (.flPp p ws) s).flash = (if (Instr.flPp p ws).illFormed = none then flashAfter s.cfg (.program (byteAddrOf p) (halvesBytes ws)) s.flash else s.flash) := by
  simp only [transact_flPp, flPp]
  split
  · simp [flashCommand_flash]
  · simp

@[simp] theorem flSe_flash (p : Packed) (s : State) :
    (transact (.flSe p) s).flash = flashAfter s.cfg (.eraseSector (sectorOf p)) s.flash := by
  simp only [transact_flSe, flSe]
  simp [flashCommand_flash]

@[simp] theorem flBe_flash (p : Packed) (s : State) :
    (transact (.flBe p) s).flash = flashAfter s.cfg (.eraseBlock (blockOf s.cfg p)) s.flash := by
  simp only [transact_flBe, flBe]
  simp [flashCommand_flash]

@[simp] theorem flUlbpr_flash (s : State) :
    (transact .flUlbpr s).flash = flashProtected false s.flash := by
  simp only [transact_flUlbpr, flUlbpr]
  simp [flashProtection_flash]

@[simp] theorem flProtect_flash (bs : List Byte) (s : State) :
    (transact (.flProtect bs) s).flash = flashProtected true s.flash := by
  simp only [transact_flProtect, flProtect]
  simp [flashProtection_flash]

@[simp] theorem flRead_flash (a : FlashAddr) (n : Nat) (s : State) :
    (transact (.flRead a n) s).flash = s.flash := by
  simp only [transact_flRead, flRead]
  split
  · split <;> rfl
  · rfl

@[simp] theorem frWren_flash (e : FramSel) (s : State) :
    (transact (.frWren e) s).flash = s.flash := by
  simp only [transact_frWren, frWren]
  simp

@[simp] theorem frWrite_flash (e : FramSel) (a : FramAddr) (bs : List Byte) (s : State) :
    (transact (.frWrite e a bs) s).flash = s.flash := by
  simp only [transact_frWrite, frWrite]
  split
  · split <;> simp
  · rfl

@[simp] theorem frRead_flash (e : FramSel) (a : FramAddr) (n : Nat) (s : State) :
    (transact (.frRead e a n) s).flash = s.flash := by
  simp only [transact_frRead, frRead]
  split <;> rfl

@[simp] theorem flWren_fram (s : State) (d : FramSel) : (transact .flWren s).fram d = s.fram d := by
  simp only [transact_flWren, flWren]
  split <;> simp

@[simp] theorem flRdsr_fram (s : State) (d : FramSel) : (transact .flRdsr s).fram d = s.fram d := by
  simp only [transact_flRdsr, flRdsr]
  simp

@[simp] theorem flPp_fram (p : Packed) (ws : List Half) (s : State) (d : FramSel) : (transact (.flPp p ws) s).fram d = s.fram d := by
  simp only [transact_flPp, flPp]
  split
  · simp [flashCommand_fram]
  · simp

@[simp] theorem flSe_fram (p : Packed) (s : State) (d : FramSel) : (transact (.flSe p) s).fram d = s.fram d := by
  simp only [transact_flSe, flSe]
  simp [flashCommand_fram]

@[simp] theorem flBe_fram (p : Packed) (s : State) (d : FramSel) : (transact (.flBe p) s).fram d = s.fram d := by
  simp only [transact_flBe, flBe]
  simp [flashCommand_fram]

@[simp] theorem flUlbpr_fram (s : State) (d : FramSel) : (transact .flUlbpr s).fram d = s.fram d := by
  simp only [transact_flUlbpr, flUlbpr]
  simp [flashProtection_fram]

@[simp] theorem flProtect_fram (bs : List Byte) (s : State) (d : FramSel) : (transact (.flProtect bs) s).fram d = s.fram d := by
  simp only [transact_flProtect, flProtect]
  simp [flashProtection_fram]

@[simp] theorem flRead_fram (a : FlashAddr) (n : Nat) (s : State) (d : FramSel) : (transact (.flRead a n) s).fram d = s.fram d := by
  simp only [transact_flRead, flRead]
  split
  · split <;> simp
  · simp

@[simp] theorem frWren_fram (e : FramSel) (s : State) (d : FramSel) :
    (transact (.frWren e) s).fram d = (if d = e then { s.fram d with wel := true } else s.fram d) := by
  simp only [transact_frWren, frWren]
  by_cases h : d = e
  · subst h; simp
  · simp [h, setFram_fram_ne]

@[simp] theorem frWrite_fram (e : FramSel) (a : FramAddr) (bs : List Byte) (s : State) (d : FramSel) :
    (transact (.frWrite e a bs) s).fram d = (if (Instr.frWrite e a bs).illFormed = none then framAfterWrite s.cfg d e a bs (s.fram d) else s.fram d) := by
  simp only [transact_frWrite, frWrite, framAfterWrite]
  split
  · by_cases h : d = e
    · subst h
      by_cases hw : (s.fram d).wel = true <;> simp [hw]
    · by_cases hw : (s.fram e).wel = true <;> simp [hw, h, setFram_fram_ne]
  · simp

@[simp] theorem frRead_fram (e : FramSel) (a : FramAddr) (n : Nat) (s : State) (d : FramSel) : (transact (.frRead e a n) s).fram d = s.fram d := by
  simp only [transact_frRead, frRead]
  split <;> simp

/-- A status poll reads the busy bit and no state changes but the transport's (rule R122). -/
@[simp] theorem transact_rdsr_busy (s : State) : (transact .flRdsr s).port.rx.busy s.cfg = s.flash.busy := by
  show (statusBits _ _ _).get s.cfg.busyBit = _
  simp [statusBits, Vector.get_eq_getElem]

/-- An FRAM read returns the bytes it addresses (rule R133). -/
theorem transact_frRead_bytes (d : FramSel) (a : FramAddr) (n : Nat) (s : State)
    (h : (Instr.frRead d a n).illFormed = none) :
    (transact (.frRead d a n) s).port.rx.bytes =
      (s.fram d).array.readWrap (s.cfg.framBytes d.dev) a.toNat n := by
  simp only [transact_frRead, frRead, h, if_true]
  simp [Received.bytes]

/-- A read of an idle Flash returns the bytes it addresses (rule R128). -/
theorem transact_flRead_bytes (a : FlashAddr) (n : Nat) (s : State) (h : (Instr.flRead a n).illFormed = none)
    (hb : s.flash.busy = false) :
    (transact (.flRead a n) s).port.rx.bytes = s.flash.array.readWrap s.cfg.flashBytes a.toNat (2 * n) := by
  simp only [transact_flRead, flRead, h, if_true]
  simp [Received.bytes, hb]

end Sys2Proof.Machine
end

