-- ==== Sys2Proof/Laws/Operands.lean ====
section
/-! SUPPORT. What the operand checks say, and the shapes of the operand forms. -/

namespace Sys2Proof.Machine

@[simp] theorem wordCountOk_iff (n : BitVec 8) : wordCountOk n = true ↔ 1 ≤ n.toNat ∧ n.toNat ≤ 128 := by
  rw [wordCountOk, Bool.and_eq_true, decide_eq_true_iff, decide_eq_true_iff, Config.pageWords]

@[simp] theorem recordLenOk_iff (p : Params) (n : Nat) : recordLenOk p n = true ↔ 1 ≤ n ∧ n ≤ p.lMax := by
  rw [recordLenOk, Bool.and_eq_true, decide_eq_true_iff, decide_eq_true_iff]

/-- The selector of a generic task names a device exactly when it stands for one of the task's set. -/
theorem selectedDev_eq_some (k : Task) (s : State) (d : Dev) :
    selectedDev k s = some d ↔ devOfSelector (s.ctxAt k).dev = some d ∧ d ∈ (s.taskCfg k).devs := by
  simp [selectedDev, Option.filter_eq_some_iff]

theorem taskDev_eq_some (c : TaskCfg) (d : Dev) : taskDev c = some d ↔ c.devs = [d] := by
  unfold taskDev
  split
  · rename_i h; simp [h]
  · rename_i h
    exact Iff.intro (fun e => by cases e) (fun e => absurd e (h d))

@[simp] theorem framSel_dev (d : FramSel) : framSel d.dev = some d := by cases d <;> rfl

theorem recordFram_eq_some (c : TaskCfg) (d : FramSel) (h : c.devs = [d.dev]) : recordFram c = some d := by
  rw [recordFram, (taskDev_eq_some c d.dev).mpr h, Option.bind_some, framSel_dev]

/-! ### Lengths of what goes out -/

@[simp] theorem recordWordCount_eq (len : Nat) : recordWordCount len = 2 * (len + 2) := rfl

@[simp] theorem length_halvesBytes (hs : List Half) : (halvesBytes hs).length = 2 * hs.length := by
  induction hs with
  | nil => rfl
  | cons h t ih => simp only [halvesBytes, List.flatMap_cons, List.length_append] at *; simp [halfBytes, ih]; omega

@[simp] theorem length_payload (c : Ctx) (len : Nat) (h : len ≤ 62) : (c.payload len).length = len := by
  simp [Ctx.payload, h]

@[simp] theorem length_defaults (c : Ctx) (len : Nat) (h : len ≤ 62) : (c.defaults len).length = len := by
  simp [Ctx.defaults, h]

@[simp] theorem length_bufWords (c : Ctx) (n : Nat) (h : n ≤ 128) : (c.bufWords n).length = n := by
  simp [Ctx.bufWords, h]

@[simp] theorem length_encodeRecord (p : List Word) : (encodeRecord p).length = p.length + 2 := by
  simp [encodeRecord]

theorem length_flatMap_wordHalves (ws : List Word) : (ws.flatMap wordHalves).length = 2 * ws.length := by
  induction ws with
  | nil => rfl
  | cons w t ih => simp only [List.flatMap_cons, List.length_append, ih]; simp [wordHalves]; omega

/-- A record has 2·(L + 2) transport words (rule R104). -/
theorem length_recordHalves (c : Ctx) (len : Nat) (h : len ≤ 62) : (recordHalves c len).length = 2 * (len + 2) := by
  rw [recordHalves, length_flatMap_wordHalves, length_encodeRecord, length_payload c len h]

/-! ### The frames of the request classes are well formed -/

theorem illFormed_flPp (p : Packed) (words : List Half) (h1 : 1 ≤ words.length) (h2 : words.length ≤ 128) :
    (Instr.flPp p words).illFormed = none := by
  simp [Instr.illFormed, Config.pageWords, h1, h2]

theorem illFormed_flRead (a : FlashAddr) (n : Nat) (h1 : 1 ≤ n) (h2 : n ≤ 128) :
    (Instr.flRead a n).illFormed = none := by
  simp [Instr.illFormed, Config.pageWords, h1, h2]

theorem illFormed_frWrite (d : FramSel) (a : FramAddr) (bytes : List Byte) (h1 : 1 ≤ bytes.length)
    (h2 : bytes.length ≤ 256) : (Instr.frWrite d a bytes).illFormed = none := by
  simp [Instr.illFormed, Config.framFrameBytes, h1, h2]

theorem illFormed_frRead (d : FramSel) (a : FramAddr) (n : Nat) (h1 : 1 ≤ n) (h2 : n ≤ 256) :
    (Instr.frRead d a n).illFormed = none := by
  simp [Instr.illFormed, Config.framFrameBytes, h1, h2]

/-! ### Context updates, field by field -/

@[simp] theorem withVal_phase (c : Ctx) (len : Nat) (ws : List Word) : (c.withVal len ws).phase = c.phase := by
  rw [Ctx.withVal]
@[simp] theorem withVal_opi (c : Ctx) (len : Nat) (ws : List Word) : (c.withVal len ws).opi = c.opi := by
  rw [Ctx.withVal]
@[simp] theorem withVal_fs (c : Ctx) (len : Nat) (ws : List Word) : (c.withVal len ws).fs = c.fs := by
  rw [Ctx.withVal]
@[simp] theorem withVal_op (c : Ctx) (len : Nat) (ws : List Word) : (c.withVal len ws).op = c.op := by
  rw [Ctx.withVal]
@[simp] theorem withVal_status (c : Ctx) (len : Nat) (ws : List Word) : (c.withVal len ws).status = c.status := by
  rw [Ctx.withVal]
@[simp] theorem withVal_abort (c : Ctx) (len : Nat) (ws : List Word) : (c.withVal len ws).abort = c.abort := by
  rw [Ctx.withVal]
@[simp] theorem withVal_src (c : Ctx) (len : Nat) (ws : List Word) : (c.withVal len ws).src = c.src := by
  rw [Ctx.withVal]
@[simp] theorem withVal_needErase (c : Ctx) (len : Nat) (ws : List Word) : (c.withVal len ws).needErase = c.needErase := by
  rw [Ctx.withVal]
@[simp] theorem withVal_pend (c : Ctx) (len : Nat) (ws : List Word) : (c.withVal len ws).pend = c.pend := by
  rw [Ctx.withVal]
@[simp] theorem withVal_polls (c : Ctx) (len : Nat) (ws : List Word) : (c.withVal len ws).polls = c.polls := by
  rw [Ctx.withVal]
@[simp] theorem withVal_addr (c : Ctx) (len : Nat) (ws : List Word) : (c.withVal len ws).addr = c.addr := by
  rw [Ctx.withVal]
@[simp] theorem withVal_dev (c : Ctx) (len : Nat) (ws : List Word) : (c.withVal len ws).dev = c.dev := by
  rw [Ctx.withVal]
@[simp] theorem withVal_n (c : Ctx) (len : Nat) (ws : List Word) : (c.withVal len ws).n = c.n := by
  rw [Ctx.withVal]
@[simp] theorem withVal_rstart (c : Ctx) (len : Nat) (ws : List Word) : (c.withVal len ws).rstart = c.rstart := by
  rw [Ctx.withVal]
@[simp] theorem withVal_count (c : Ctx) (len : Nat) (ws : List Word) : (c.withVal len ws).count = c.count := by
  rw [Ctx.withVal]
@[simp] theorem withVal_nzero (c : Ctx) (len : Nat) (ws : List Word) : (c.withVal len ws).nzero = c.nzero := by
  rw [Ctx.withVal]
@[simp] theorem withVal_dflt (c : Ctx) (len : Nat) (ws : List Word) : (c.withVal len ws).dflt = c.dflt := by
  rw [Ctx.withVal]
@[simp] theorem withVal_buf (c : Ctx) (len : Nat) (ws : List Word) : (c.withVal len ws).buf = c.buf := by
  rw [Ctx.withVal]
@[simp] theorem withBuf_phase (c : Ctx) (n : Nat) (hs : List Half) : (c.withBuf n hs).phase = c.phase := by
  rw [Ctx.withBuf]
@[simp] theorem withBuf_opi (c : Ctx) (n : Nat) (hs : List Half) : (c.withBuf n hs).opi = c.opi := by
  rw [Ctx.withBuf]
@[simp] theorem withBuf_fs (c : Ctx) (n : Nat) (hs : List Half) : (c.withBuf n hs).fs = c.fs := by
  rw [Ctx.withBuf]
@[simp] theorem withBuf_op (c : Ctx) (n : Nat) (hs : List Half) : (c.withBuf n hs).op = c.op := by
  rw [Ctx.withBuf]
@[simp] theorem withBuf_status (c : Ctx) (n : Nat) (hs : List Half) : (c.withBuf n hs).status = c.status := by
  rw [Ctx.withBuf]
@[simp] theorem withBuf_abort (c : Ctx) (n : Nat) (hs : List Half) : (c.withBuf n hs).abort = c.abort := by
  rw [Ctx.withBuf]
@[simp] theorem withBuf_src (c : Ctx) (n : Nat) (hs : List Half) : (c.withBuf n hs).src = c.src := by
  rw [Ctx.withBuf]
@[simp] theorem withBuf_needErase (c : Ctx) (n : Nat) (hs : List Half) : (c.withBuf n hs).needErase = c.needErase := by
  rw [Ctx.withBuf]
@[simp] theorem withBuf_pend (c : Ctx) (n : Nat) (hs : List Half) : (c.withBuf n hs).pend = c.pend := by
  rw [Ctx.withBuf]
@[simp] theorem withBuf_polls (c : Ctx) (n : Nat) (hs : List Half) : (c.withBuf n hs).polls = c.polls := by
  rw [Ctx.withBuf]
@[simp] theorem withBuf_addr (c : Ctx) (n : Nat) (hs : List Half) : (c.withBuf n hs).addr = c.addr := by
  rw [Ctx.withBuf]
@[simp] theorem withBuf_dev (c : Ctx) (n : Nat) (hs : List Half) : (c.withBuf n hs).dev = c.dev := by
  rw [Ctx.withBuf]
@[simp] theorem withBuf_n (c : Ctx) (n : Nat) (hs : List Half) : (c.withBuf n hs).n = c.n := by
  rw [Ctx.withBuf]
@[simp] theorem withBuf_rstart (c : Ctx) (n : Nat) (hs : List Half) : (c.withBuf n hs).rstart = c.rstart := by
  rw [Ctx.withBuf]
@[simp] theorem withBuf_count (c : Ctx) (n : Nat) (hs : List Half) : (c.withBuf n hs).count = c.count := by
  rw [Ctx.withBuf]
@[simp] theorem withBuf_nzero (c : Ctx) (n : Nat) (hs : List Half) : (c.withBuf n hs).nzero = c.nzero := by
  rw [Ctx.withBuf]
@[simp] theorem withBuf_val (c : Ctx) (n : Nat) (hs : List Half) : (c.withBuf n hs).val = c.val := by
  rw [Ctx.withBuf]
@[simp] theorem withBuf_dflt (c : Ctx) (n : Nat) (hs : List Half) : (c.withBuf n hs).dflt = c.dflt := by
  rw [Ctx.withBuf]
@[simp] theorem ended_phase (c : Ctx) : c.ended.phase = c.phase := rfl
@[simp] theorem ended_op (c : Ctx) : c.ended.op = c.op := rfl
@[simp] theorem ended_status (c : Ctx) : c.ended.status = c.status := rfl
@[simp] theorem ended_src (c : Ctx) : c.ended.src = c.src := rfl
@[simp] theorem ended_needErase (c : Ctx) : c.ended.needErase = c.needErase := rfl
@[simp] theorem ended_polls (c : Ctx) : c.ended.polls = c.polls := rfl
@[simp] theorem ended_addr (c : Ctx) : c.ended.addr = c.addr := rfl
@[simp] theorem ended_dev (c : Ctx) : c.ended.dev = c.dev := rfl
@[simp] theorem ended_n (c : Ctx) : c.ended.n = c.n := rfl
@[simp] theorem ended_rstart (c : Ctx) : c.ended.rstart = c.rstart := rfl
@[simp] theorem ended_count (c : Ctx) : c.ended.count = c.count := rfl
@[simp] theorem ended_nzero (c : Ctx) : c.ended.nzero = c.nzero := rfl
@[simp] theorem ended_val (c : Ctx) : c.ended.val = c.val := rfl
@[simp] theorem ended_dflt (c : Ctx) : c.ended.dflt = c.dflt := rfl
@[simp] theorem ended_buf (c : Ctx) : c.ended.buf = c.buf := rfl
@[simp] theorem ended_abort (c : Ctx) : c.ended.abort = false := rfl
@[simp] theorem ended_pend (c : Ctx) : c.ended.pend = 0 := rfl
@[simp] theorem ended_opi (c : Ctx) : c.ended.opi = 0 := rfl
@[simp] theorem ended_fs (c : Ctx) : c.ended.fs = .boundary := rfl

/-- VAL after an update: the first `len` words are the new ones. -/
theorem withVal_val_get (c : Ctx) (len : Nat) (ws : List Word) (i : Fin 62) :
    (c.withVal len ws).val.get i = if i.val < len then ws.getD i.val 0 else c.val.get i := by
  simp [Ctx.withVal, Vector.get_eq_getElem]

/-- BUF after an update: the first `n` words are the new ones. -/
theorem withBuf_buf_get (c : Ctx) (n : Nat) (hs : List Half) (i : Fin 128) :
    (c.withBuf n hs).buf.get i = if i.val < n then hs.getD i.val 0 else c.buf.get i := by
  simp [Ctx.withBuf, Vector.get_eq_getElem]

end Sys2Proof.Machine
end

