-- ==== Sys2Proof/Laws/Engine.lean ====
section
/-! SUPPORT. The shapes of the shared operations as whole states: what a frame leaves, what a slice comes down to at each
position of its task, and the two starts of a device operation. -/

namespace Sys2Proof.Machine

/-! ### Kept operations -/

/-- The kept operations depend on the contexts and the build alone. -/
theorem opOk_congr {s t : State} (h : t.ctx = s.ctx) (hc : t.cfg = s.cfg) (ho : s.OpOk) : t.OpOk := by
  simp only [State.OpOk, State.SequenceOp, State.ctxAt, State.taskCfg, h, hc]
  exact ho

/-! ### Frames as whole states -/

theorem commanded_eq_flashAfter (s : State) (op : FlashOp) : s.commanded op = flashAfter s.cfg op s.flash := by
  simp only [State.commanded, flashAfter]
  cases s.flash.busy <;> cases s.flash.wel <;> simp

theorem protection_eq_flashProtected (s : State) (b : Bool) : s.protection b = flashProtected b s.flash := by
  simp only [State.protection, flashProtected]
  cases s.flash.busy <;> cases s.flash.wel <;> simp

theorem noRx_flashCommand (op : FlashOp) (s : State) :
    (flashCommand op s).noRx = { s with port := { s.port with rx := .none }, flash := s.commanded op } := by
  simp only [flashCommand, State.commanded]
  cases s.flash.busy <;> cases s.flash.wel <;> cases s.flash.bp <;> cases op.inCal s.cfg <;> simp <;> rfl

theorem noRx_flashProtection (b : Bool) (s : State) :
    (flashProtection b s).noRx = { s with port := { s.port with rx := .none }, flash := s.protection b } := by
  simp only [flashProtection, State.protection]
  cases s.flash.busy <;> cases s.flash.wel <;> simp <;> rfl

theorem transact_flWren_state (s : State) :
    transact .flWren s = { s.sentFrame .flWren with flash := { s.flash with wel := s.flash.wel || !s.flash.busy } } := by
  rcases s with ⟨_, _, _, _, _, _, _, _, _, ⟨_, wel, busy, _, _⟩, _, _, _, _⟩
  cases busy <;> cases wel <;> rfl

theorem transact_flRdsr_state (s : State) : transact .flRdsr s = s.afterPoll := rfl

theorem transact_flPp_state (p : Packed) (words : List Half) (s : State) (h : (Instr.flPp p words).illFormed = none) :
    transact (.flPp p words) s = { s.sentFrame (.flPp p words) with
      flash := s.commanded (.program (byteAddrOf p) (halvesBytes words)) } := by
  rw [transact_flPp, flPp, if_pos h, noRx_flashCommand]; rfl

theorem transact_flSe_state (p : Packed) (s : State) :
    transact (.flSe p) s = { s.sentFrame (.flSe p) with flash := s.commanded (.eraseSector (sectorOf p)) } := by
  rw [transact_flSe, flSe, noRx_flashCommand]; rfl

theorem transact_flBe_state (p : Packed) (s : State) :
    transact (.flBe p) s = { s.sentFrame (.flBe p) with flash := s.commanded (.eraseBlock (blockOf s.cfg p)) } := by
  rw [transact_flBe, flBe, noRx_flashCommand]; rfl

theorem transact_flUlbpr_state (s : State) :
    transact .flUlbpr s = { s.sentFrame .flUlbpr with flash := s.protection false } := by
  rw [transact_flUlbpr, flUlbpr, noRx_flashProtection]; rfl

theorem transact_flProtect_state (data : List Byte) (s : State) :
    transact (.flProtect data) s = { s.sentFrame (.flProtect data) with flash := s.protection true } := by
  rw [transact_flProtect, flProtect, noRx_flashProtection]; rfl

theorem transact_frWren_state (d : FramSel) (s : State) :
    transact (.frWren d) s = (s.sentFrame (.frWren d)).setFram d { s.fram d with wel := true } := by
  cases d <;> rfl

/-- What a write frame leaves in its FRAM's array (rules R77, R132). -/
def framWritten (p : Params) (d : FramSel) (a : FramAddr) (bytes : List Byte) (f : Fram) : Memory :=
  if f.wel = true then f.array.writeWrap (p.framBytes d.dev) a.toNat bytes else f.array

theorem transact_frWrite_state (d : FramSel) (a : FramAddr) (bytes : List Byte) (s : State)
    (h : (Instr.frWrite d a bytes).illFormed = none) :
    transact (.frWrite d a bytes) s =
      (s.sentFrame (.frWrite d a bytes)).setFram d ⟨framWritten s.cfg d a bytes (s.fram d), false⟩ := by
  rw [transact_frWrite, frWrite, if_pos h]
  cases hw : (s.fram d).wel
  · cases d <;> simp_all [framWritten, State.fram, State.setFram, State.sentFrame, sending, State.setPort, State.noRx, State.setRx] <;> rw [← hw]
  · cases d <;> simp_all [framWritten, State.fram, State.setFram, State.sentFrame, sending, State.setPort, State.noRx, State.setRx]

/-- A read frame to an FRAM, as a whole state. -/
theorem transact_frRead_state (d : FramSel) (a : FramAddr) (n : Nat) (s : State)
    (h : (Instr.frRead d a n).illFormed = none) :
    transact (.frRead d a n) s =
      s.afterRead (.frRead d a n) ((s.fram d).array.readWrap (s.cfg.framBytes d.dev) a.toNat n) := by
  rw [transact_frRead, frRead, if_pos h, sending_fram]; rfl

/-- A read frame to the Flash, as a whole state: the array's bytes where it is idle, else free ones. -/
theorem transact_flRead_state (a : FlashAddr) (n : Nat) (s : State) (h : (Instr.flRead a n).illFormed = none) :
    transact (.flRead a n) s =
      if s.flash.busy = true then { s.afterRead (.flRead a n) (freeBytes s.env.free (2 * n)) with
        env := { s.env with free := s.env.free + 2 * n } }
      else s.afterRead (.flRead a n) (s.flash.array.readWrap s.cfg.flashBytes a.toNat (2 * n)) := by
  have hn : 2 * n ≠ 0 := by
    simp only [Instr.illFormed] at h
    split at h
    · omega
    · cases h
  rw [transact_flRead, flRead, if_pos h, sending_flash]
  cases s.flash.busy
  · rfl
  · simp [malformedFrame, hn]; rfl

/-! ### Slices -/

/-- A request bit's meaning is one slice of its task, by its class (rules R91, R219). -/
theorem exec_request (k : Task) (s : State) : exec (requestInstrs.get k) s = .next (slice k (taskRule k s) s) := by
  fin_cases k <;> rfl

/-- The same with the class at hand. -/
theorem exec_class (k : Task) (cls : OpClass) (s : State) (h : (s.taskCfg k).cls = cls) :
    exec (requestInstrs.get k) s = .next (slice k (classRule k cls) s) := by
  rw [exec_request, taskRule, h]

theorem slice_finish (k : Task) (r : ClassRule) (s : State) (h : (s.ctxAt k).phase = .finish) :
    slice k r s = finishAck k s := by
  simp [slice, h]

theorem slice_run (k : Task) (r : ClassRule) (s : State) (h : (s.ctxAt k).phase = .run) :
    slice k r s = runTask k r s := by
  simp [slice, h]

theorem slice_idle (k : Task) (r : ClassRule) (s : State) (h : (s.ctxAt k).phase = .idle) :
    slice k r s = if r.valid (r.start (beginTask k s)) = true then runTask k r (r.start (beginTask k s))
      else finish k .invalidParam (r.start (beginTask k s)) := by
  simp [slice, h]

theorem slice_boundary (k : Task) (r : ClassRule) (s : State) (h : (s.ctxAt k).phase = .run)
    (hf : (s.ctxAt k).fs = .boundary) : slice k r s = r.boundary s := by
  rw [slice_run k r s h, runTask, if_pos hf]

theorem slice_command (k : Task) (r : ClassRule) (s : State) (h : (s.ctxAt k).phase = .run)
    (hf : (s.ctxAt k).fs = .enabled) : slice k r s = commandStep k r s := by
  rw [slice_run k r s h, runTask, if_neg (by simp [hf]), continueOp, if_pos hf]

theorem slice_poll (k : Task) (r : ClassRule) (s : State) (h : (s.ctxAt k).phase = .run)
    (hf : (s.ctxAt k).fs = .issued) : slice k r s = pollStep k r s := by
  rw [slice_run k r s h, runTask, if_neg (by simp [hf]), continueOp, if_neg (by simp [hf])]

/-! ### Context updates as record updates -/

theorem modCtx_eq (k : Task) (f : Ctx → Ctx) (s : State) :
    s.modCtx k f = { s with ctx := s.ctx.set k.val (f (s.ctxAt k)) } := rfl

@[simp] theorem ctx_set_get (v : Vector Ctx 32) (k : Task) (c : Ctx) : (v.set k.val c).get k = c := by
  simp [Vector.get_eq_getElem]

theorem beginTask_eq (k : Task) (s : State) : beginTask k s = { s with ctx := s.ctx.set k.val (s.begun k) } := rfl

@[simp] theorem ctxAt_withCtx (s : State) (k : Task) (c : Ctx) :
    ({ s with ctx := s.ctx.set k.val c } : State).ctxAt k = c := by
  simp [State.ctxAt]

/-- The same from the context vector alone, whatever the other fields are. -/
theorem ctxAt_of_ctx {t : State} {v : Vector Ctx 32} {k : Task} {c : Ctx} (h : t.ctx = v.set k.val c) : t.ctxAt k = c := by
  simp [State.ctxAt, h]

@[simp] theorem ctxAt_beginTask (k : Task) (s : State) : (beginTask k s).ctxAt k = s.begun k := by
  rw [beginTask_eq, ctxAt_withCtx]
@[simp] theorem taskCfg_beginTask (k j : Task) (s : State) : (beginTask k s).taskCfg j = s.taskCfg j := rfl
@[simp] theorem beginTask_cfg (k : Task) (s : State) : (beginTask k s).cfg = s.cfg := rfl
@[simp] theorem beginTask_prot (k : Task) (s : State) : (beginTask k s).prot = s.prot := rfl

theorem modCtx_beginTask (k : Task) (f : Ctx → Ctx) (s : State) :
    (beginTask k s).modCtx k f = { s with ctx := s.ctx.set k.val (f (s.begun k)) } := by
  rw [modCtx_eq, ctxAt_beginTask, beginTask_eq, Vector.set_set]

/-- The start of a Flash operation (rule R150). -/
theorem startFop_eq (k : Task) (op : DeviceOp) (s : State) :
    startFop k op s = { s.sentFrame .flWren with
      flash := { s.flash with wel := s.flash.wel || !s.flash.busy }
      lockV := true
      lockK := k
      ctx := s.ctx.set k.val { s.ctxAt k with fs := .enabled, polls := 0, op := op } } := by
  rw [startFop, transact_flWren_state]; rfl

/-- The start of an FRAM write operation (rule R158). -/
theorem startWop_eq (k : Task) (d : FramSel) (op : DeviceOp) (s : State) :
    startWop k d op s = ({ s.sentFrame (.frWren d) with
      lockV := true
      lockK := k
      ctx := s.ctx.set k.val { s.ctxAt k with fs := .enabled, op := op } } : State).setFram d
        { s.fram d with wel := true } := by
  rw [startWop, transact_frWren_state]
  cases d <;> rfl

/-- Every operation of a calibration write is a Flash operation (rule R179). -/
theorem startOp_calWriteOp (k : Task) (s : State) : startOp k (calWriteOp k s) s = startFop k (calWriteOp k s) s := by
  simp only [calWriteOp]
  split
  · rfl
  · split
    · rfl
    · split
      · rfl
      · split <;> rfl

/-- The op boundary of a calibration write that its PROT check lets pass (rules R179, R180). -/
theorem calWriteBoundary_pass (k : Task) (s : State) (h : s.prot = false ∨ 4 ≤ (s.ctxAt k).opi.toNat) :
    calWriteBoundary k s = startFop k (calWriteOp k s) s := by
  rw [calWriteBoundary, if_neg, startOp_calWriteOp]
  rcases h with h | h
  · simp [h]
  · simp [show ¬(s.ctxAt k).opi.toNat < 4 by omega]

/-- The op boundary of a calibration write that its PROT check refuses (rule R179). -/
theorem calWriteBoundary_refused (k : Task) (s : State) (h : s.prot = true) (ho : (s.ctxAt k).opi.toNat < 4) :
    calWriteBoundary k s = finish k .writeProtected s := by
  simp [calWriteBoundary, h, ho]

/-! ### The command slice, by the operation that the op boundary kept (rules R151, R152, R158) -/

theorem commandStep_prog (k : Task) (r : ClassRule) (s : State) (p : Packed) (n : Nat)
    (h : (s.ctxAt k).op = .prog p n) :
    commandStep k r s = (transact (.flPp p (r.data n s).2) (r.data n s).1).setFs k .issued := by
  simp only [commandStep, h]

theorem commandStep_se (k : Task) (r : ClassRule) (s : State) (p : Packed) (h : (s.ctxAt k).op = .se p) :
    commandStep k r s = (transact (.flSe p) s).setFs k .issued := by
  simp only [commandStep, h]

theorem commandStep_be (k : Task) (r : ClassRule) (s : State) (p : Packed) (h : (s.ctxAt k).op = .be p) :
    commandStep k r s = (transact (.flBe p) s).setFs k .issued := by
  simp only [commandStep, h]

theorem commandStep_protect (k : Task) (r : ClassRule) (s : State) (h : (s.ctxAt k).op = .protect) :
    commandStep k r s = endOp k r (transact (.flProtect s.cfg.protectData) s) := by
  simp only [commandStep, h]

theorem commandStep_unlock (k : Task) (r : ClassRule) (s : State) (h : (s.ctxAt k).op = .unlock) :
    commandStep k r s = endOp k r (transact .flUlbpr s) := by
  simp only [commandStep, h]

theorem commandStep_fram (k : Task) (r : ClassRule) (s : State) (d : FramSel) (a : FramAddr) (n : Nat)
    (h : (s.ctxAt k).op = .fram d a n) :
    commandStep k r s = endOp k r (transact (.frWrite d a (halvesBytes (r.data n s).2)) (r.data n s).1) := by
  simp only [commandStep, h]

/-! ### Polls and the end of a device operation -/

/-- POLLS counts up and stays at 0xFFFF (rules R37, R153). -/
theorem nextPolls_toNat (p : BitVec 16) : (nextPolls p).toNat = min (p.toNat + 1) 0xFFFF := by
  unfold nextPolls
  split
  · rename_i h; subst h; rfl
  · rename_i h
    have : p.toNat ≠ 65535 := fun e => h (BitVec.eq_of_toNat_eq e)
    have := p.isLt
    rw [BitVec.toNat_add]
    simp
    omega

/-- A poll of a busy Flash (rules R153, R154). -/
theorem pollStep_busy (k : Task) (r : ClassRule) (s : State) (h : s.flash.busy = true) :
    pollStep k r s = pollLimit k { s.afterPoll with
      ctx := s.ctx.set k.val { s.ctxAt k with polls := nextPolls (s.ctxAt k).polls } } := by
  rw [pollStep, transact_rdsr_busy, if_pos h]; rfl

/-- A device operation's end as a record update (rules R152, R153, R158). -/
theorem endOp_eq (k : Task) (r : ClassRule) (s : State) :
    endOp k r s = opComplete k r
      { s with lockV := false, ctx := s.ctx.set k.val { s.ctxAt k with fs := .boundary } } := rfl

/-- A poll of an idle Flash (rule R153). -/
theorem pollStep_idle (k : Task) (r : ClassRule) (s : State) (h : s.flash.busy = false) :
    pollStep k r s = opComplete k r { s.afterPoll with
      lockV := false, ctx := s.ctx.set k.val { s.ctxAt k with polls := 0, fs := .boundary } } := by
  rw [pollStep, transact_rdsr_busy, if_neg (by simp [h]), endOp_eq, transact_flRdsr_state, modCtx_eq]
  rw [ctxAt_withCtx, Vector.set_set]
  rfl

/-- What follows a completed operation of a class that takes no abort (rule R217). -/
theorem opComplete_plain (k : Task) (r : ClassRule) (s : State) (h : r.captures = false) :
    opComplete k r s = match (r.commit s).2 with
      | some st => finish k st (r.commit s).1
      | none => if bitAt (r.commit s).1.req k = true then (r.commit s).1 else withdraw k (r.commit s).1 := by
  simp [opComplete, h] <;> rfl

end Sys2Proof.Machine
end

