-- ==== Sys2Proof/Laws/Arbiter.lean ====
section
/-! SUPPORT. What the arbiter's steps and the task-ending primitives leave, said once: the fields that steps 1-4 of a tick
(45_arbiter.md rules R210-R212, R216) never touch, their effect on one task, and the ends of a tick. -/

namespace Sys2Proof.Machine

/-! ### Every instruction answers a next state -/

theorem exec_next (i : Instr) (s : State) : ∃ t, exec i s = .next t := by
  cases i <;> exact ⟨_, rfl⟩

/-- `finish` as a record update (rule R214). -/
theorem finish_eq (k : Task) (st : Status) (s : State) :
    finish k st s = { s with
      ack := if s.scan = some k then setBit s.ack k else s.ack
      ctx := s.ctx.set k.val { (s.ctxAt k).ended with
        status := st
        phase := if s.scan = some k then .idle else if bitAt s.req k = true then .finish else .idle } } := by
  simp only [finish]
  split
  · rfl
  · split <;> rfl

/-- `retire` as a record update (rule R215). -/
theorem retire_eq (k : Task) (s : State) :
    retire k s = { s with
      req := clearBit s.req k
      ctx := s.ctx.set k.val { (s.ctxAt k).ended with
        count := if (s.ctxAt k).phase = .idle then 0 else (s.ctxAt k).count, status := .aborted, phase := .idle } } := rfl

theorem withdraw_eq (k : Task) (s : State) :
    withdraw k s = { s with ctx := s.ctx.set k.val (s.ctxAt k).withdrawn } := rfl

/-- A context after a whole-record update of the context vector. -/
theorem ctxAt_with (s : State) (k j : Task) (c : Ctx) :
    ({ s with ctx := s.ctx.set k.val c } : State).ctxAt j = if j = k then c else s.ctxAt j :=
  ctxAt_setCtx s k j c

theorem ctxAt_finish (k j : Task) (st : Status) (s : State) :
    (finish k st s).ctxAt j = if j = k then { (s.ctxAt k).ended with
        status := st
        phase := if s.scan = some k then .idle else if bitAt s.req k = true then .finish else .idle }
      else s.ctxAt j := by
  rw [finish_eq]; exact ctxAt_setCtx s k j _

theorem ctxAt_retire (k j : Task) (s : State) :
    (retire k s).ctxAt j = if j = k then { (s.ctxAt k).ended with
        count := if (s.ctxAt k).phase = .idle then 0 else (s.ctxAt k).count, status := .aborted, phase := .idle }
      else s.ctxAt j := by
  rw [retire_eq]; exact ctxAt_setCtx s k j _

theorem ctxAt_withdraw (k j : Task) (s : State) :
    (withdraw k s).ctxAt j = if j = k then (s.ctxAt k).withdrawn else s.ctxAt j := by
  rw [withdraw_eq]; exact ctxAt_setCtx s k j _

/-! ### Steps 1-4 of a tick -/

/-- Only REQ, ACK and the contexts differ. -/
structure TaskOnly (s t : State) : Prop where
  cfg   : t.cfg = s.cfg
  sflt  : t.sflt = s.sflt
  lockV : t.lockV = s.lockV
  lockK : t.lockK = s.lockK
  prot  : t.prot = s.prot
  ring  : t.ring = s.ring
  flash : t.flash = s.flash
  fram1 : t.fram1 = s.fram1
  fram2 : t.fram2 = s.fram2
  port  : t.port = s.port
  env   : t.env = s.env

theorem TaskOnly.refl (s : State) : TaskOnly s s := by constructor <;> rfl

theorem TaskOnly.trans {s t u : State} (h : TaskOnly s t) (h' : TaskOnly t u) : TaskOnly s u where
  cfg   := h'.cfg.trans h.cfg
  sflt  := h'.sflt.trans h.sflt
  lockV := h'.lockV.trans h.lockV
  lockK := h'.lockK.trans h.lockK
  prot  := h'.prot.trans h.prot
  ring  := h'.ring.trans h.ring
  flash := h'.flash.trans h.flash
  fram1 := h'.fram1.trans h.fram1
  fram2 := h'.fram2.trans h.fram2
  port  := h'.port.trans h.port
  env   := h'.env.trans h.env

theorem taskOnly_finish (k : Task) (st : Status) (s : State) : TaskOnly s (finish k st s) := by
  rw [finish_eq]; constructor <;> rfl
theorem taskOnly_retire (k : Task) (s : State) : TaskOnly s (retire k s) := by constructor <;> rfl
theorem taskOnly_withdraw (k : Task) (s : State) : TaskOnly s (withdraw k s) := by constructor <;> rfl
theorem taskOnly_release (s : State) : TaskOnly s (release s) := by constructor <;> rfl
theorem taskOnly_withdrawAll (s : State) : TaskOnly s (withdrawAll s) := by constructor <;> simp only [withdrawAll]

theorem taskOnly_supersedeTask (lo : Task) (s : State) : TaskOnly s (supersedeTask lo s) := by
  simp only [supersedeTask]
  split <;> constructor <;> rfl

theorem taskOnly_foldl (f : State → Task → State) (hf : ∀ s k, TaskOnly s (f s k)) :
    ∀ (l : List Task) (s : State), TaskOnly s (l.foldl f s)
  | [], s => .refl s
  | k :: l, s => (hf s k).trans (taskOnly_foldl f hf l (f s k))

theorem taskOnly_supersede (s : State) : TaskOnly s (supersede s) :=
  taskOnly_foldl _ (fun s lo => taskOnly_supersedeTask lo s) _ _

/-- Steps 1-4 touch REQ, ACK and the contexts alone, and start the record of frames afresh. -/
theorem taskOnly_arbitrate (s : State) : TaskOnly (s.setPort { s.port with rx := .none, sent := [] }) (arbitrate s) := by
  rw [arbitrate]
  exact (taskOnly_release _).trans ((taskOnly_supersede _).trans (taskOnly_withdrawAll _))

@[simp] theorem arbitrate_cfg (s : State) : (arbitrate s).cfg = s.cfg := (taskOnly_arbitrate s).cfg
@[simp] theorem arbitrate_sflt (s : State) : (arbitrate s).sflt = s.sflt := (taskOnly_arbitrate s).sflt
@[simp] theorem arbitrate_lockV (s : State) : (arbitrate s).lockV = s.lockV := (taskOnly_arbitrate s).lockV
@[simp] theorem arbitrate_lockK (s : State) : (arbitrate s).lockK = s.lockK := (taskOnly_arbitrate s).lockK
@[simp] theorem arbitrate_prot (s : State) : (arbitrate s).prot = s.prot := (taskOnly_arbitrate s).prot
@[simp] theorem arbitrate_ring (s : State) : (arbitrate s).ring = s.ring := (taskOnly_arbitrate s).ring
@[simp] theorem arbitrate_flash (s : State) : (arbitrate s).flash = s.flash := (taskOnly_arbitrate s).flash
@[simp] theorem arbitrate_fram1 (s : State) : (arbitrate s).fram1 = s.fram1 := (taskOnly_arbitrate s).fram1
@[simp] theorem arbitrate_fram2 (s : State) : (arbitrate s).fram2 = s.fram2 := (taskOnly_arbitrate s).fram2
@[simp] theorem arbitrate_port (s : State) : (arbitrate s).port = { s.port with rx := .none, sent := [] } :=
  (taskOnly_arbitrate s).port
@[simp] theorem arbitrate_env (s : State) : (arbitrate s).env = s.env := (taskOnly_arbitrate s).env

/-- The effect of a release on one task's ACK bit (rule R211). -/
@[simp] theorem bitAt_release (s : State) (k : Task) : bitAt (release s).ack k = (bitAt s.ack k && bitAt s.req k) :=
  bitAt_releasedAck _ _ _

/-- The effect of the withdrawal on one task (rule R216). -/
theorem ctxAt_withdrawAll (s : State) (k : Task) :
    (withdrawAll s).ctxAt k = if isWithdrawn s k = true then (s.ctxAt k).withdrawn else s.ctxAt k := by
  simp [withdrawAll, State.ctxAt, Vector.get_eq_getElem]

/-- The effect of one supersede on one task (rule R212). -/
theorem supersedeTask_eq (lo : Task) (s : State) :
    supersedeTask lo s = { s with
      req := clearBit s.req lo
      ctx := s.ctx.set lo.val (
        if s.holdsLock lo = true then { s.ctxAt lo with abort := true }
        else { (s.ctxAt lo).ended with
          count := if (s.ctxAt lo).phase = .idle then 0 else (s.ctxAt lo).count, status := .aborted, phase := .idle }) } := by
  have hl : (((s.modCtx lo fun c => { c with abort := true }).setReq (clearBit s.req lo)).holdsLock lo) = s.holdsLock lo := rfl
  simp only [supersedeTask, hl]
  split
  · rfl
  · rw [retire_eq]
    simp only [State.modCtx, State.setReq, State.setCtx, State.mk.injEq, true_and]
    refine ⟨?_, ?_⟩
    · apply word_ext; intro k; simp
    · simp [State.ctxAt, Vector.get_eq_getElem, Vector.set_set, Ctx.ended] <;> rfl

/-- The captures of rule R212's set S. -/
theorem mem_supersededTasks (s : State) (lo : Task) : lo ∈ supersededTasks s ↔
    (s.taskCfg lo).cls = .capture ∧ ∃ hi, (s.taskCfg hi).cls = .capture ∧ hi < lo ∧ supersedes s hi lo = true := by
  simp [supersededTasks, Params.tasksOf, State.taskCfg, and_comm]

theorem nodup_supersededTasks (s : State) : (supersededTasks s).Nodup :=
  ((List.nodup_finRange 32).filter _).filter _

/-! ### The word a tick serves -/

theorem selectedWord_locked (c : Commands) (s : State) (h : s.lockV = true) : decode c (.request (selectedWord s)) =
    .ok (requestInstrs.get s.lockK) := by
  simp [selectedWord, h, decode]

theorem selectedWord_scan (c : Commands) (s : State) (h : s.lockV = false) : decode c (.request (selectedWord s)) =
    match s.scan with
    | some k => .ok (requestInstrs.get k)
    | none => .error .noRequest := by
  have hw : selectedWord s = pendingWord s.req s.ack := if_neg (by simp [h])
  rw [hw, State.scan]
  cases h2 : lowestBit (pendingWord s.req s.ack) <;> simp only [decode, h2]

/-- The scan choice: the pending task of smallest index. -/
theorem scan_some (s : State) (k : Task) :
    s.scan = some k ↔ isPending s k = true ∧ ∀ j, j < k → isPending s j = false := by
  rw [State.scan, lowestBit_some]
  simp [isPending]

theorem scan_none (s : State) : s.scan = none ↔ ∀ k, isPending s k = false := by
  rw [State.scan, lowestBit_none]
  simp [isPending]

/-- A tick is steps 1-4, one slice of the task they select, if any, and the tick's end (rules R210, R213). -/
theorem tick_eq (s : State) :
    tick s = .next (endTick (match (arbitrate s).sel with
      | some k => slice k (taskRule k (arbitrate s)) (arbitrate s)
      | none => arbitrate s)) := by
  rw [tick]
  cases h : (arbitrate s).lockV
  · rw [selectedWord_scan _ _ h, State.sel, h]
    simp only [Bool.false_eq_true, if_false]
    cases (arbitrate s).scan with
    | none => rfl
    | some k => simp only [exec_request]
  · rw [selectedWord_locked _ _ h, State.sel, h]
    simp only [if_true, exec_request]

/-! ### The end of a tick -/

theorem pushAll_eq (vs : List Sample) : ∀ s : State,
    pushAll s vs = s.setRing (vs.foldl (fun r v => r.push s.cfg.ringN s.cfg.setWords v) s.ring) := by
  induction vs with
  | nil => intro s; rfl
  | cons v vs ih => intro s; exact ih (pushSample s v)

theorem foldl_pushAll_eq (gs : List (List Sample)) : ∀ s : State,
    gs.foldl pushAll s = s.setRing (gs.flatten.foldl (fun r v => r.push s.cfg.ringN s.cfg.setWords v) s.ring) := by
  induction gs with
  | nil => intro s; rfl
  | cons g gs ih =>
    intro s
    rw [List.foldl_cons, ih, pushAll_eq, List.flatten_cons, List.foldl_append]
    rfl

/-- The end of a tick as a record update (rules R49, R229). -/
theorem endTick_eq (s : State) : endTick s = { s with
    port := { s.port with rx := .none }
    ring := s.env.between.flatten.foldl (fun r v => r.push s.cfg.ringN s.cfg.setWords v) s.ring
    env := { s.env with between := [] } } := by
  rw [endTick]
  simp only [foldl_pushAll_eq]
  rfl

end Sys2Proof.Machine
end

