-- ==== Sys2Proof/Laws/Capture.lean ====
section
/-! SUPPORT. What a capture's page data is (44_waveform_streamer.md rules R192, R194, R199): the sample-sets it carries, the
ring reads it makes and the pushes that fall between them. -/

namespace Sys2Proof.Machine

/-! ### The ring while pushes fall -/

theorem ringAfter_zero (s : State) : s.ringAfter 0 = s.ring := by simp [State.ringAfter]

/-- One ring read lets the next group of pushes fall. -/
theorem ringReadLive_eq (s : State) (slot : Nat) : ringReadLive s slot =
    ({ s with ring := s.ringAfter 1, env := { s.env with between := s.env.between.drop 1 } },
      s.ring.read s.cfg.setWords slot) := by
  simp only [ringReadLive, State.ringAfter]
  cases h : s.env.between with
  | nil =>
    obtain ⟨_, _, _, _, _, _, _, _, _, _, _, _, _, ⟨_, _, _, _⟩⟩ := s
    simp_all
  | cons g rest =>
    simp only [pushAll_eq]
    simp [State.setEnv, State.setRing]

/-- The ring after one group, and then after more. -/
theorem ringAfter_step (s : State) (n : Nat) :
    ({ s with ring := s.ringAfter 1, env := { s.env with between := s.env.between.drop 1 } } : State).ringAfter n =
      s.ringAfter (n + 1) := by
  simp only [State.ringAfter]
  cases h : s.env.between with
  | nil => simp
  | cons g rest => simp [List.foldl_append]

/-! ### The samples of a page -/

/-- The samples from number `n` on, that a page of `m` carries (rules R192, R194). -/
theorem samplesFrom_eq (k : Task) : ∀ (m n : Nat) (s : State),
    samplesFrom k m n s =
      ({ s with
          ring := s.ringAfter (n + m - max (s.ctxAt k).nzero.toNat n)
          env := { s.env with between := s.env.between.drop (n + m - max (s.ctxAt k).nzero.toNat n) } },
        (List.range m).flatMap fun j =>
          if n + j < (s.ctxAt k).nzero.toNat then zeroSample s.cfg.setWords
          else (s.ringAfter (n + j - max (s.ctxAt k).nzero.toNat n)).read s.cfg.setWords
            (((s.ctxAt k).rstart.toNat + (n + j)) % s.cfg.ringN))
  | 0, n, s => by
    have : n + 0 - max (s.ctxAt k).nzero.toNat n = 0 := by omega
    rw [this]; simp [samplesFrom, ringAfter_zero]
  | m + 1, n, s => by
    rw [samplesFrom]
    simp only [sampleAt]
    by_cases h : n < (s.ctxAt k).nzero.toNat
    · rw [if_pos h]
      simp only [samplesFrom_eq k m (n + 1) s]
      have e : n + 1 + m - max (s.ctxAt k).nzero.toNat (n + 1) = n + (m + 1) - max (s.ctxAt k).nzero.toNat n := by omega
      rw [e, List.range_succ_eq_map, List.flatMap_cons, List.flatMap_map]
      simp only [Nat.add_zero, if_pos h]
      congr 3
      funext j
      rw [show n + (j + 1) = n + 1 + j by omega,
        show max (s.ctxAt k).nzero.toNat (n + 1) = max (s.ctxAt k).nzero.toNat n by omega]
    · rw [if_neg h, ringReadLive_eq]
      simp only [samplesFrom_eq k m (n + 1)]
      have hc : ({ s with ring := s.ringAfter 1, env := { s.env with between := s.env.between.drop 1 } } : State).ctxAt k =
        s.ctxAt k := rfl
      simp only [hc, ringAfter_step]
      have hm : max (s.ctxAt k).nzero.toNat n = n := by omega
      have hm1 : max (s.ctxAt k).nzero.toNat (n + 1) = n + 1 := by omega
      rw [hm, hm1, List.range_succ_eq_map, List.flatMap_cons, List.flatMap_map]
      simp only [Nat.add_zero, if_neg h, Nat.sub_self, ringAfter_zero, List.drop_drop]
      rw [show n + 1 + m - (n + 1) = m by omega, show n + (m + 1) - n = m + 1 by omega, Nat.add_comm 1 m]
      congr 3
      funext j
      rw [show n + (j + 1) = n + 1 + j by omega, show n + 1 + j - n = n + 1 + j - (n + 1) + 1 by omega]

/-! ### Sizes -/

/-- A slot of a ring whose slots all have S_W words has S_W words. -/
theorem length_ringRead (words : Nat) (r : Ring) (slot : Nat) (h : ∀ p ∈ r.slots, p.2.length = words) :
    (r.read words slot).length = words := by
  unfold Ring.read
  generalize r.slots = l at h
  induction l with
  | nil => simp [storeRead, zeroSample]
  | cons p l ih =>
    simp only [storeRead]
    split
    · exact h p (by simp)
    · exact ih fun q hq => h q (by simp [hq])

theorem sized_push (size words : Nat) (r : Ring) (v : Sample) (h : ∀ p ∈ r.slots, p.2.length = words) :
    ∀ p ∈ (r.push size words v).slots, p.2.length = words := by
  intro p hp
  rcases mem_storeWrite _ _ _ _ _ hp with h' | h'
  · simp_all
  · exact h p h'

theorem sized_ringAfter (s : State) (n : Nat) (h : ∀ p ∈ s.ring.slots, p.2.length = s.cfg.setWords) :
    ∀ p ∈ (s.ringAfter n).slots, p.2.length = s.cfg.setWords := by
  unfold State.ringAfter
  generalize (s.env.between.take n).flatten = vs
  generalize s.ring = r at h
  induction vs generalizing r with
  | nil => exact h
  | cons v vs ih => exact ih _ (sized_push _ _ _ _ h)

/-- The words of equal-sized groups, one after the other. -/
theorem getD_flatMap_range {α : Type} (f : Nat → List α) (size m : Nat) (d : α) (hf : ∀ j, j < m → (f j).length = size) :
    ((List.range m).flatMap f).length = m * size ∧
    ∀ j w, j < m → w < size → ((List.range m).flatMap f).getD (j * size + w) d = (f j).getD w d := by
  induction m with
  | zero => simp
  | succ m ih =>
    obtain ⟨h1, h2⟩ := ih fun j hj => hf j (by omega)
    rw [List.range_succ, List.flatMap_append]
    refine ⟨by simp [h1, hf m (by omega), Nat.succ_mul], fun j w hj hw => ?_⟩
    by_cases hjm : j < m
    · have hlt : j * size + w < m * size := by
        have : (j + 1) * size ≤ m * size := Nat.mul_le_mul_right _ hjm
        rw [Nat.succ_mul] at this; omega
      have := h2 j w hjm hw
      rw [List.getD_eq_getElem?_getD, List.getElem?_append_left (by rw [h1]; exact hlt), ← List.getD_eq_getElem?_getD, this]
    · obtain rfl : j = m := by omega
      rw [List.getD_eq_getElem?_getD, List.getElem?_append_right (by rw [h1]; omega), h1]
      simp [List.getD_eq_getElem?_getD]

end Sys2Proof.Machine
end

