-- ==== Sys2Proof/Laws/Params.lean ====
section
/-! SUPPORT. What a set of parameters that meets every constraint (00_scope.md rule R9, 30_encoding.md rule R94) gives. -/

namespace Sys2Proof

/-- Every named check passes. -/
theorem Params.ok_iff (p : Params) : p.Ok ↔ ∀ c ∈ p.checks, c.2 = true := by
  simp [Params.Ok, Params.fault]

/-- Every check of a list passes where each in turn does. -/
theorem forall_checks_cons (f : ParamFault) (b : Bool) (l : List (ParamFault × Bool)) :
    (∀ c ∈ (f, b) :: l, c.2 = true) ↔ b = true ∧ ∀ c ∈ l, c.2 = true := by
  simp

/-- The numeric constraints of rule R9 and the bounds of log entry 4. -/
theorem Params.Ok.bounds {p : Params} (h : p.Ok) :
    (1 ≤ p.setWords ∧ 7 * p.setWords ≤ 128) ∧ (8 ≤ p.ringN ∧ p.ringN ∣ 2 ^ 32) ∧
    (1 ≤ p.framBytes1 ∧ 1 ≤ p.framBytes2) ∧
    p.flashSectors % p.blockSectors = 0 ∧ (1 ≤ p.lMax ∧ p.lMax ≤ 62) ∧ p.cmds.distinct = true := by
  have hc := p.ok_iff.mp h
  simp only [Params.checks, forall_checks_cons] at hc
  obtain ⟨-, -, -, -, h1, h2, -, -, h3, h4, h5, h6, -⟩ := hc
  simp only [Bool.and_eq_true, decide_eq_true_iff, beq_iff_eq] at h1 h2 h4 h5
  simp only [framReached, Bool.and_eq_true, decide_eq_true_iff] at h3
  exact ⟨h1, ⟨h2.1, Nat.dvd_of_mod_eq_zero h2.2⟩, ⟨h3.1.1, h3.2.1⟩, h4, h5, h6⟩

/-- The constraints on the widths, the Flash's size and the address bytes. -/
theorem Params.Ok.widths {p : Params} (h : p.Ok) :
    (1 ≤ p.reqW ∧ p.reqW ≤ 32) ∧ p.tasksFit = true ∧ p.tw = 16 ∧ p.flashSectors = 4096 ∧ p.cmds.addressed = true := by
  have hc := p.ok_iff.mp h
  simp only [Params.checks, forall_checks_cons] at hc
  obtain ⟨h1, h2, h3, h4, -⟩ := hc
  simp only [Bool.and_eq_true, decide_eq_true_iff, beq_iff_eq] at h1 h2 h3
  exact ⟨h1.1, h1.2, h2, h3, h4⟩

/-- A task with a class has a request bit. -/
theorem Params.Ok.task_lt {p : Params} (h : p.Ok) (k : Task) (hk : (p.tasks.get k).cls ≠ .unassigned) : k.val < p.reqW := by
  have := List.all_eq_true.mp h.widths.2.1 k (List.mem_finRange k)
  simpa [hk] using this

/-- The mask of the request bits holds the REQ_W low ones. -/
theorem getLsbD_reqMask (p : Params) (i : Nat) : p.reqMask.getLsbD i = (decide (i < 32) && decide (i < p.reqW)) := by
  simp [Params.reqMask, BitVec.getLsbD_ofNat, Nat.testBit_two_pow_sub_one]

theorem Params.Ok.pageBytes {p : Params} (h : p.Ok) : p.pageBytes = 256 := by
  rw [Params.pageBytes, h.widths.2.2.1]; rfl

theorem Params.Ok.flashBytes {p : Params} (h : p.Ok) : p.flashBytes = 16777216 := by
  rw [Params.flashBytes, h.widths.2.2.2.1]; rfl

theorem Params.Ok.setWords {p : Params} (h : p.Ok) : 1 ≤ p.setWords ∧ 7 * p.setWords ≤ 128 := h.bounds.1

theorem Params.Ok.ring {p : Params} (h : p.Ok) : 8 ≤ p.ringN ∧ p.ringN ∣ 2 ^ 32 := h.bounds.2.1

theorem Params.Ok.ring_le {p : Params} (h : p.Ok) : p.ringN ≤ 4294967296 := Nat.le_of_dvd (by norm_num) h.ring.2

/-- The address bytes of an FRAM's frames reach all of it. -/
theorem Params.Ok.reached {p : Params} (h : p.Ok) (d : FramSel) : p.framBytes d.dev ≤ 256 ^ p.cmds.addrBytesOf d.dev := by
  have hc := p.ok_iff.mp h
  simp only [Params.checks, forall_checks_cons] at hc
  obtain ⟨-, -, -, -, -, -, -, -, h3, -⟩ := hc
  simp only [framReached, Bool.and_eq_true, decide_eq_true_iff] at h3
  cases d
  · exact h3.1.2
  · exact h3.2.2

/-- FRAM_ADDR_BYTES is 1, 2 or 3. -/
theorem Params.Ok.addrBytes {p : Params} (h : p.Ok) (d : FramSel) :
    1 ≤ p.cmds.addrBytesOf d.dev ∧ p.cmds.addrBytesOf d.dev ≤ 3 := by
  have ha := h.widths.2.2.2.2
  simp only [Commands.addressed, Bool.and_eq_true, List.all_cons, List.all_nil, Bool.and_true, decide_eq_true_iff] at ha
  cases d
  · exact ha.2.1
  · exact ha.2.2

/-- Every address of an FRAM is an `FramAddr`. -/
theorem Params.Ok.framBytes {p : Params} (h : p.Ok) (d : FramSel) :
    1 ≤ p.framBytes d.dev ∧ p.framBytes d.dev ≤ 16777216 := by
  constructor
  · cases d
    · exact h.bounds.2.2.1.1
    · exact h.bounds.2.2.1.2
  · exact (h.reached d).trans (Nat.pow_le_pow_right (n := 256) (by omega) (h.addrBytes d).2)

theorem Params.Ok.lMax {p : Params} (h : p.Ok) : 1 ≤ p.lMax ∧ p.lMax ≤ 62 := h.bounds.2.2.2.2.1

theorem Params.Ok.commands {p : Params} (h : p.Ok) : p.cmds.distinct = true := h.bounds.2.2.2.2.2

/-- Erase blocks tile the array. -/
theorem Params.Ok.blocks {p : Params} (h : p.Ok) : 1 ≤ p.blockSectors ∧ p.blockSectors ∣ 4096 := by
  have hb := h.bounds.2.2.2.1
  rw [h.widths.2.2.2.1] at hb
  refine ⟨?_, Nat.dvd_of_mod_eq_zero hb⟩
  rcases Nat.eq_zero_or_pos p.blockSectors with h0 | h0
  · simp [h0] at hb
  · exact h0

end Sys2Proof
end

