-- ==== Sys2Proof/Laws/PerInstr.lean ====
section
/-! SUPPORT. Per instruction: its encoded form, at the default command bytes, carries the `match` value of its row of spec/opcode_table.json, in the
unit the row numbers (the opcode byte of a frame on the select line of its device, or the request word), and it is well
formed exactly where the lengths of 30_encoding.md rule R100 hold. -/

namespace Sys2Proof.Laws.TableRow

open Sys2Proof

/-- The `match` column of the table, row by row. -/
def matchValue : Instr → Nat
  | .flWren => 0x06
  | .flRdsr => 0x05
  | .flPp _ _ => 0x02
  | .flSe _ => 0x20
  | .flBe _ => 0xD8
  | .flUlbpr => 0x98
  | .flProtect _ => 0x42
  | .flRead _ _ => 0x03
  | .frWren _ => 0x06
  | .frWrite _ _ _ => 0x02
  | .frRead _ _ _ => 0x03
  | .req0CapTrip => 0x1
  | .req1CapAlarm => 0x2
  | .req2CapExt => 0x4
  | .req3EidWrite => 0x8
  | .req4EidRead => 0x10
  | .req5PeakWrite => 0x20
  | .req6PeakRead => 0x40
  | .req7DlogErase => 0x80
  | .req8DlogWrite => 0x100
  | .req9TscaleWrite => 0x200
  | .req10TscaleRead => 0x400
  | .req11CalUnlock => 0x800
  | .req12CalAfeWrite => 0x1000
  | .req13CalAdcWrite => 0x2000
  | .req14CalInjWrite => 0x4000
  | .req15CalAfeRead => 0x8000
  | .req16CalAdcRead => 0x10000
  | .req17CalInjRead => 0x20000
  | .req18FlashRead => 0x40000
  | .req19FramRead => 0x80000
  | .req20FramWrite => 0x100000
  | .req21SectorErase => 0x200000
  | .req22BlockErase => 0x400000
  | .req23Unassigned => 0x800000
  | .req24Unassigned => 0x1000000
  | .req25Unassigned => 0x2000000
  | .req26Unassigned => 0x4000000
  | .req27Unassigned => 0x8000000
  | .req28Unassigned => 0x10000000
  | .req29Unassigned => 0x20000000
  | .req30Unassigned => 0x40000000
  | .req31Unassigned => 0x80000000

/-- Whether a row is a frame of the transport; else it is a request bit. -/
def isFrame (i : Instr) : Bool := i.task.isNone

/-- The device whose select line a row of the frames names. -/
def device : Instr → Dev
  | .frWren d => d.dev
  | .frWrite d _ _ => d.dev
  | .frRead d _ _ => d.dev
  | _ => .flash

/-- The lengths that rule R100 gives a row. -/
def lengthsOk : Instr → Prop
  | .flPp _ words => 1 ≤ words.length ∧ words.length ≤ 128
  | .flRead _ n => 1 ≤ n ∧ n ≤ 128
  | .frWrite _ _ bytes => 1 ≤ bytes.length ∧ bytes.length ≤ 256
  | .frRead _ _ n => 1 ≤ n ∧ n ≤ 256
  | _ => True

/-- The encoded form matches its row and the lengths of rule R100 say when the instruction is well formed. -/
def Statement (i : Instr) : Prop :=
  (match encode Config.commands i with
   | .request w => isFrame i = false ∧ w.toNat = matchValue i
   | .frame f => isFrame i = true ∧ f.dev = device i ∧ ∃ op rest, f.out = op :: rest ∧ op.toNat = matchValue i) ∧
  (i.WellFormed ↔ lengthsOk i)

/-- The shape of every length check. -/
theorem wellFormed_ite (c : Prop) [Decidable c] (e : IllFormed) : (if c then none else some e) = none ↔ c := by
  split <;> simp_all

/-- An instruction without a length has no check to fail. -/
theorem wellFormed_free : (none : Option IllFormed) = none ↔ True := by simp

theorem flWren : Statement (.flWren) :=
  ⟨⟨rfl, rfl, _, _, rfl, rfl⟩, wellFormed_free⟩
theorem flRdsr : Statement (.flRdsr) :=
  ⟨⟨rfl, rfl, _, _, rfl, rfl⟩, wellFormed_free⟩
theorem flPp (p : Packed) (words : List Half) : Statement (.flPp p words) :=
  ⟨⟨rfl, rfl, _, _, rfl, rfl⟩, wellFormed_ite _ _⟩
theorem flSe (p : Packed) : Statement (.flSe p) :=
  ⟨⟨rfl, rfl, _, _, rfl, rfl⟩, wellFormed_free⟩
theorem flBe (p : Packed) : Statement (.flBe p) :=
  ⟨⟨rfl, rfl, _, _, rfl, rfl⟩, wellFormed_free⟩
theorem flUlbpr : Statement (.flUlbpr) :=
  ⟨⟨rfl, rfl, _, _, rfl, rfl⟩, wellFormed_free⟩
theorem flProtect (data : List Byte) : Statement (.flProtect data) :=
  ⟨⟨rfl, rfl, _, _, rfl, rfl⟩, wellFormed_free⟩
theorem flRead (a : FlashAddr) (n : Nat) : Statement (.flRead a n) :=
  ⟨⟨rfl, rfl, _, _, rfl, rfl⟩, wellFormed_ite _ _⟩
theorem frWren (d : FramSel) : Statement (.frWren d) :=
  ⟨⟨rfl, rfl, _, _, rfl, rfl⟩, wellFormed_free⟩
theorem frWrite (d : FramSel) (a : FramAddr) (bytes : List Byte) : Statement (.frWrite d a bytes) :=
  ⟨⟨rfl, rfl, _, _, rfl, rfl⟩, wellFormed_ite _ _⟩
theorem frRead (d : FramSel) (a : FramAddr) (n : Nat) : Statement (.frRead d a n) :=
  ⟨⟨rfl, rfl, _, _, rfl, rfl⟩, wellFormed_ite _ _⟩
theorem req0CapTrip : Statement (.req0CapTrip) :=
  ⟨⟨rfl, rfl⟩, wellFormed_free⟩
theorem req1CapAlarm : Statement (.req1CapAlarm) :=
  ⟨⟨rfl, rfl⟩, wellFormed_free⟩
theorem req2CapExt : Statement (.req2CapExt) :=
  ⟨⟨rfl, rfl⟩, wellFormed_free⟩
theorem req3EidWrite : Statement (.req3EidWrite) :=
  ⟨⟨rfl, rfl⟩, wellFormed_free⟩
theorem req4EidRead : Statement (.req4EidRead) :=
  ⟨⟨rfl, rfl⟩, wellFormed_free⟩
theorem req5PeakWrite : Statement (.req5PeakWrite) :=
  ⟨⟨rfl, rfl⟩, wellFormed_free⟩
theorem req6PeakRead : Statement (.req6PeakRead) :=
  ⟨⟨rfl, rfl⟩, wellFormed_free⟩
theorem req7DlogErase : Statement (.req7DlogErase) :=
  ⟨⟨rfl, rfl⟩, wellFormed_free⟩
theorem req8DlogWrite : Statement (.req8DlogWrite) :=
  ⟨⟨rfl, rfl⟩, wellFormed_free⟩
theorem req9TscaleWrite : Statement (.req9TscaleWrite) :=
  ⟨⟨rfl, rfl⟩, wellFormed_free⟩
theorem req10TscaleRead : Statement (.req10TscaleRead) :=
  ⟨⟨rfl, rfl⟩, wellFormed_free⟩
theorem req11CalUnlock : Statement (.req11CalUnlock) :=
  ⟨⟨rfl, rfl⟩, wellFormed_free⟩
theorem req12CalAfeWrite : Statement (.req12CalAfeWrite) :=
  ⟨⟨rfl, rfl⟩, wellFormed_free⟩
theorem req13CalAdcWrite : Statement (.req13CalAdcWrite) :=
  ⟨⟨rfl, rfl⟩, wellFormed_free⟩
theorem req14CalInjWrite : Statement (.req14CalInjWrite) :=
  ⟨⟨rfl, rfl⟩, wellFormed_free⟩
theorem req15CalAfeRead : Statement (.req15CalAfeRead) :=
  ⟨⟨rfl, rfl⟩, wellFormed_free⟩
theorem req16CalAdcRead : Statement (.req16CalAdcRead) :=
  ⟨⟨rfl, rfl⟩, wellFormed_free⟩
theorem req17CalInjRead : Statement (.req17CalInjRead) :=
  ⟨⟨rfl, rfl⟩, wellFormed_free⟩
theorem req18FlashRead : Statement (.req18FlashRead) :=
  ⟨⟨rfl, rfl⟩, wellFormed_free⟩
theorem req19FramRead : Statement (.req19FramRead) :=
  ⟨⟨rfl, rfl⟩, wellFormed_free⟩
theorem req20FramWrite : Statement (.req20FramWrite) :=
  ⟨⟨rfl, rfl⟩, wellFormed_free⟩
theorem req21SectorErase : Statement (.req21SectorErase) :=
  ⟨⟨rfl, rfl⟩, wellFormed_free⟩
theorem req22BlockErase : Statement (.req22BlockErase) :=
  ⟨⟨rfl, rfl⟩, wellFormed_free⟩
theorem req23Unassigned : Statement (.req23Unassigned) :=
  ⟨⟨rfl, rfl⟩, wellFormed_free⟩
theorem req24Unassigned : Statement (.req24Unassigned) :=
  ⟨⟨rfl, rfl⟩, wellFormed_free⟩
theorem req25Unassigned : Statement (.req25Unassigned) :=
  ⟨⟨rfl, rfl⟩, wellFormed_free⟩
theorem req26Unassigned : Statement (.req26Unassigned) :=
  ⟨⟨rfl, rfl⟩, wellFormed_free⟩
theorem req27Unassigned : Statement (.req27Unassigned) :=
  ⟨⟨rfl, rfl⟩, wellFormed_free⟩
theorem req28Unassigned : Statement (.req28Unassigned) :=
  ⟨⟨rfl, rfl⟩, wellFormed_free⟩
theorem req29Unassigned : Statement (.req29Unassigned) :=
  ⟨⟨rfl, rfl⟩, wellFormed_free⟩
theorem req30Unassigned : Statement (.req30Unassigned) :=
  ⟨⟨rfl, rfl⟩, wellFormed_free⟩
theorem req31Unassigned : Statement (.req31Unassigned) :=
  ⟨⟨rfl, rfl⟩, wellFormed_free⟩

end Sys2Proof.Laws.TableRow
end

