-- ==== Sys2Proof/Laws/Wire.lean ====
section
/-! SUPPORT. DATA_WIDTH changes only how bytes are clocked (20_memory.md rule R70): the bits on the line are those of the
frame's bytes in order, at every width. -/

namespace Sys2Proof.Machine

/-- The bits of bytes shifted one by one, most significant bit first. -/
def lineBits (bytes : List Byte) : List Bool := bytes.flatMap fun b => (Shift.shift8 b).bits

theorem lineBits_append (a b : List Byte) : lineBits (a ++ b) = lineBits a ++ lineBits b := by simp [lineBits]

theorem getLsbD_halfOf (hi lo : Byte) (i : Nat) :
    (halfOf hi lo).getLsbD i = if i < 8 then lo.getLsbD i else hi.getLsbD (i - 8) := by
  rw [halfOf, BitVec.getLsbD_append]

/-- A 16-bit shift puts the two bytes of its word on the line, the high byte first (rule R68). -/
theorem bits_shift16 (hi lo : Byte) : (Shift.shift16 (halfOf hi lo)).bits = lineBits [hi, lo] := by
  simp only [Shift.bits, lineBits, List.range, List.range.loop, List.map_cons, List.map_nil, getLsbD_halfOf,
    List.flatMap_cons, List.flatMap_nil, List.append_nil, List.cons_append, List.nil_append]
  rfl

/-- The order and the value of the bytes do not depend on the width. -/
theorem bits_dataShifts : ∀ (w : DataWidth) (bytes : List Byte), (dataShifts w bytes).flatMap Shift.bits = lineBits bytes
  | w, [] => by cases w <;> rfl
  | .byteWide, b :: rest => by
    rw [dataShifts, List.flatMap_cons, bits_dataShifts .byteWide rest]; rfl
  | .wordWide, [b] => by simp [dataShifts, lineBits]
  | .wordWide, hi :: lo :: rest => by
    rw [dataShifts, List.flatMap_cons, bits_dataShifts .wordWide rest, bits_shift16, ← lineBits_append]; rfl

/-- The bits of a frame on the line are those of its bytes in order, whatever the widths of the build. -/
theorem bits_frameShifts (p : Params) (i : Instr) :
    (frameShifts p i).flatMap Shift.bits = lineBits (encodeFrame p.cmds i).out := by
  simp only [frameShifts, List.flatMap_append, bits_dataShifts, ← lineBits_append, List.take_append_drop]

end Sys2Proof.Machine
end

