-- ==== Sys2Proof/Tests/Slice0.lean ====
section
/-! SUPPORT. The model's own tests: each well-formedness check refuses an ill-formed term, every constructor's decoding
on a word written out from the spec's encoding, one-step tests whose expected values are those of
spec/95_test_vectors.md (the vector is named), and for every obligation with hypotheses a state and operands that meet
them all. -/

namespace Sys2Proof.Tests

open Sys2Proof Sys2Proof.Machine

/-! ### Helpers -/

/-- The result is a next state that satisfies `p`. -/
def leads (r : Result) (p : State → Bool) : Bool :=
  match r with
  | .next t => p t
  | _ => false

/-- The code decodes to `i`. -/
def decodesTo (c : Code) (i : Instr) : Bool :=
  match decode Config.commands c with
  | .ok j => j == i
  | .error _ => false

/-- The code is rejected, by the name `e`. -/
def rejectedAs (c : Code) (e : DecodeError) : Bool :=
  match decode Config.commands c with
  | .ok _ => false
  | .error e' => e' == e

/-- A frame to the Flash, to FRAM1 and to FRAM2. -/
def fl (out : List Byte) (nIn : Nat := 0) : Frame := ⟨.flash, out, nIn⟩
def fr1 (out : List Byte) (nIn : Nat := 0) : Frame := ⟨.fram1, out, nIn⟩
def fr2 (out : List Byte) (nIn : Nat := 0) : Frame := ⟨.fram2, out, nIn⟩

/-- The reset state with request `k` raised and its context changed by `f`. -/
def asked (k : Task) (f : Ctx → Ctx) : State := (State.reset.setReq (requestWord k)).modCtx k f

/-- Task `k` inside a device operation at sub-step `fs`, its request still raised, its context changed by `f`. -/
def inside (k : Task) (fs : SubStep) (f : Ctx → Ctx) : State :=
  (asked k fun c => { f c with phase := .run, fs := fs }).takeLock k

/-- The Flash write-enabled, or busy with `op`. -/
def enabledFlash (s : State) : State := s.setFlash { s.flash with wel := true }
def busyWith (op : FlashOp) (s : State) : State := s.setFlash { s.flash with wel := true, busy := true, op := some op }

/-- The state with block protection on, in the engine and in the device. -/
def protectedState (s : State) : State := (s.setProt true).setFlash { s.flash with bp := true }

/-- The state of a build with `n` request bits. -/
def narrow (n : Nat) (s : State) : State := { s with cfg := { s.cfg with reqW := n } }

/-- A build whose FRAM 2 has 128 KiB and three address bytes, the secondary copies in its second half. -/
def wideFram : Params :=
  { Config.defaults with
    cmds := { Config.commands with fram2AddrBytes := 3 }
    framBytes2 := 0x20000
    rrOffFram := 0x10000
    tasks := Config.defaultTasks.set 3 ⟨.eidWrite, .rrWrite, [.fram2], 0x012340, 2⟩ }

/-- A context with the payload words `ws`, the rest of VAL zero. -/
def withPayload (ws : List Word) (c : Ctx) : Ctx := c.withVal ws.length ws

/-- The 16 bytes of the record of [5, 0] (vector K4). -/
def record50 : List Byte := [0, 0, 0, 5, 0, 0, 0, 0, 0, 0, 0, 5, 0xFF, 0xFF, 0xFF, 0xFA]

/-- FRAM1 holding `bytes` from address `a` on. -/
def fram1With (a : Nat) (bytes : List Byte) (s : State) : State :=
  s.setFram .fram1 ⟨s.fram1.array.writeWrap 32768 a bytes, false⟩

/-! ### Well-formedness: each check refuses -/

theorem test_refuses_program_words :
    (Instr.flPp 0 []).illFormed = some .programWords ∧
    (Instr.flPp 0 (List.replicate 129 0)).illFormed = some .programWords ∧
    (Instr.flPp 0 (List.replicate 128 0)).illFormed = none := by decide +kernel

theorem test_refuses_flash_read_words :
    (Instr.flRead 0 0).illFormed = some .flashReadWords ∧ (Instr.flRead 0 129).illFormed = some .flashReadWords ∧
    (Instr.flRead 0 128).illFormed = none := by decide

theorem test_refuses_fram_write_bytes :
    (Instr.frWrite .fram1 0 []).illFormed = some .framWriteBytes ∧
    (Instr.frWrite .fram2 0 (List.replicate 257 0)).illFormed = some .framWriteBytes ∧
    (Instr.frWrite .fram2 0 (List.replicate 256 0)).illFormed = none := by decide +kernel

theorem test_refuses_fram_read_bytes :
    (Instr.frRead .fram1 0 0).illFormed = some .framReadBytes ∧ (Instr.frRead .fram2 0 257).illFormed = some .framReadBytes ∧
    (Instr.frRead .fram2 0 256).illFormed = none := by decide

theorem test_defaults_meet_constraints : Config.defaults.Ok := by decide

/-- A request word too wide for the register map, and one too narrow for the assigned tasks; the first 23 bits suffice. -/
theorem test_refuses_request_width :
    ({ Config.defaults with reqW := 33 } : Params).fault = some .requestWidth ∧
    ({ Config.defaults with reqW := 22 } : Params).fault = some .requestWidth ∧
    ({ Config.defaults with reqW := 23 } : Params).fault = none := by decide

theorem test_refuses_transport_word :
    ({ Config.defaults with tw := 8 } : Params).fault = some .transportWord ∧ Config.defaults.pageBytes = 256 := by decide

theorem test_refuses_flash_size :
    ({ Config.defaults with flashSectors := 2048 } : Params).fault = some .flashSize ∧
    Config.defaults.flashBytes = 2 ^ 24 := by decide

theorem test_refuses_address_bytes :
    ({ Config.defaults with cmds := { Config.commands with flashAddrBytes := 2 } } : Params).fault = some .addressBytes ∧
    ({ Config.defaults with cmds := { Config.commands with fram2AddrBytes := 0 } } : Params).fault = some .addressBytes ∧
    ({ Config.defaults with cmds := { Config.commands with fram2AddrBytes := 3 } } : Params).fault = none := by decide

theorem test_refuses_set_words :
    ({ Config.defaults with setWords := 0 } : Params).fault = some .setWords ∧
    ({ Config.defaults with setWords := 19 } : Params).fault = some .setWords := by decide

theorem test_refuses_ring_size :
    ({ Config.defaults with ringN := 4 } : Params).fault = some .ringSize ∧
    ({ Config.defaults with ringN := 100 } : Params).fault = some .ringSize ∧
    ({ Config.defaults with ringN := 2 ^ 33 } : Params).fault = some .ringSize ∧
    ({ Config.defaults with ringN := 8192 } : Params).fault = none := by decide

theorem test_refuses_flash_offset :
    ({ Config.defaults with rrOffFlash := 0 } : Params).fault = some .flashOffset ∧
    ({ Config.defaults with rrOffFlash := 0x81 } : Params).fault = some .flashOffset := by decide

theorem test_refuses_poll_limit :
    ({ Config.defaults with busyPollLimit := some 0 } : Params).fault = some .pollLimit := by decide

theorem test_refuses_fram_size :
    ({ Config.defaults with framBytes1 := 0 } : Params).fault = some .framSize ∧
    ({ Config.defaults with framBytes2 := 65537 } : Params).fault = some .framSize ∧
    ({ Config.defaults with cmds := { Config.commands with fram2AddrBytes := 1 } } : Params).fault = some .framSize ∧
    ({ Config.defaults with cmds := { Config.commands with fram2AddrBytes := 1 }, framBytes2 := 256 } : Params).fault = none ∧
    wideFram.fault = none ∧ ({ wideFram with framBytes2 := 2 ^ 24 + 1 } : Params).fault = some .framSize := by decide

theorem test_refuses_block_size :
    ({ Config.defaults with blockSectors := 0 } : Params).fault = some .blockSize ∧
    ({ Config.defaults with blockSectors := 24 } : Params).fault = some .blockSize := by decide

theorem test_refuses_payload_limit :
    ({ Config.defaults with lMax := 0 } : Params).fault = some .payloadLimit ∧
    ({ Config.defaults with lMax := 63 } : Params).fault = some .payloadLimit := by decide

theorem test_refuses_command_bytes :
    ({ Config.defaults with cmds := { Config.commands with se := 0xD8 } } : Params).fault = some .commandBytes ∧
    ({ Config.defaults with cmds := { Config.commands with fread := 0x02 } } : Params).fault = some .commandBytes := by
  decide

theorem test_refuses_capture_tasks :
    ({ Config.defaults with tasks := Config.defaultTasks.set 2 Config.freeTask } : Params).fault =
      some .captureTasks := by decide

/-- The names of two captures exchanged: rule R94 (c1) puts CAP_TRIP before CAP_ALARM. -/
theorem test_refuses_capture_order :
    ({ Config.defaults with
      tasks := (Config.defaultTasks.set 0 (Config.ctxTask .capAlarm .capture [.flash])).set 1
        (Config.ctxTask .capTrip .capture [.flash]) } : Params).fault = some .captureTasks := by decide

/-- EID_WRITE at bit 23, after demand logging; another record write there is none of the trip path. -/
theorem test_refuses_trip_path :
    ({ Config.defaults with
      tasks := (Config.defaultTasks.set 3 Config.freeTask).set 23 ⟨.eidWrite, .rrWrite, [.fram1], 0x0000, 2⟩ } : Params).fault =
        some .tripPath ∧
    ({ Config.defaults with tasks := Config.defaultTasks.set 23 ⟨.other, .rrWrite, [.fram1], 0x0200, 2⟩ } : Params).fault =
      none := by decide

/-- DLOG_WRITE before DLOG_ERASE; CAL_UNLOCK after the calibration writes; a page write that is no demand logging may come
first. -/
theorem test_refuses_task_order :
    ({ Config.defaults with
      tasks := (Config.defaultTasks.set 7 (Config.ctxTask .dlogWrite .pageWrite [.flash])).set 8
        (Config.ctxTask .dlogErase .eraseSector [.flash]) } : Params).fault = some .taskOrder ∧
    ({ Config.defaults with
      tasks := (Config.defaultTasks.set 11 Config.freeTask).set 23
        (Config.ctxTask .calUnlock .calUnlock [.flash]) } : Params).fault = some .taskOrder ∧
    ({ Config.defaults with
      tasks := Config.defaultTasks.set 5 (Config.ctxTask .other .pageWrite [.flash]) } : Params).fault = none := by decide

theorem test_refuses_device_sets :
    ({ Config.defaults with tasks := Config.defaultTasks.set 20 (Config.ctxTask .framWrite .framWrite [.flash]) } : Params).fault =
      some .deviceSets ∧
    ({ Config.defaults with tasks := Config.defaultTasks.set 8 (Config.ctxTask .dlogWrite .pageWrite [.fram1]) } : Params).fault =
      some .deviceSets := by decide

theorem test_refuses_record_shape :
    ({ Config.defaults with tasks := Config.defaultTasks.set 3 ⟨.eidWrite, .rrWrite, [.fram1], 0, 63⟩ } : Params).fault = some .recordShape ∧
    ({ Config.defaults with tasks := Config.defaultTasks.set 15 ⟨.calAfeRead, .rrRead, [.flash], 0x010000, 2⟩ } : Params).fault =
      some .recordShape ∧
    ({ Config.defaults with tasks := Config.defaultTasks.set 3 ⟨.eidWrite, .rrWrite, [.flash], 0, 2⟩ } : Params).fault = some .recordShape ∧
    ({ Config.defaults with tasks := Config.defaultTasks.set 12 ⟨.calAfeWrite, .calWrite, [.fram1], 0, 2⟩ } : Params).fault = some .recordShape := by
  decide

theorem test_refuses_calibration_place :
    ({ Config.defaults with tasks := Config.defaultTasks.set 12 ⟨.calAfeWrite, .calWrite, [.flash], 0x0100, 32⟩ } : Params).fault =
      some .calibrationPlace := by decide

/-! ### Decoding: words written out from rules R90, R93, R97, R100 and R103 -/

theorem test_decode_flash_frames :
    decodesTo (.frame (fl [0x06])) .flWren ∧ decodesTo (.frame (fl [0x05] 1)) .flRdsr ∧
    decodesTo (.frame (fl [0x02, 0x01, 0x50, 0x00, 0x12, 0x34, 0x56, 0x78])) (.flPp 0x0150 [0x1234, 0x5678]) ∧
    decodesTo (.frame (fl [0x20, 0x12, 0x30, 0x00])) (.flSe 0x1230) ∧
    decodesTo (.frame (fl [0xD8, 0x12, 0x34, 0x00])) (.flBe 0x1234) ∧ decodesTo (.frame (fl [0x98])) .flUlbpr ∧
    decodesTo (.frame (fl [0x42, 0xAA])) (.flProtect [0xAA]) ∧
    decodesTo (.frame (fl [0x03, 0x00, 0x20, 0x00] 72)) (.flRead 0x002000 36) := by decide

theorem test_decode_fram_frames :
    decodesTo (.frame (fr1 [0x06])) (.frWren .fram1) ∧
    decodesTo (.frame (fr2 [0x02, 0x10, 0x00, 0xBE, 0xEF])) (.frWrite .fram2 0x1000 [0xBE, 0xEF]) ∧
    decodesTo (.frame (fr1 [0x03, 0x40, 0x80] 12)) (.frRead .fram1 0x4080 12) := by decide

/-- Rule R9: with FRAM_ADDR_BYTES = 3 an FRAM frame has three address bytes, most significant first (rule R103); two are then
too few. -/
theorem test_decode_wide_fram_frames :
    let c : Commands := { Config.commands with fram2AddrBytes := 3 }
    decode c (.frame (fr2 [0x03, 0x00, 0x10, 0x20] 4)) = .ok (.frRead .fram2 0x1020 4) ∧
    encodeFrame c (.frWrite .fram2 0x1020 [0xAB]) = fr2 [0x02, 0x00, 0x10, 0x20, 0xAB] ∧
    decode c (.frame (fr2 [0x03, 0x01, 0x10, 0x20] 4)) = .ok (.frRead .fram2 0x011020 4) ∧
    decode c (.frame (fr2 [0x03, 0x10, 0x20] 4)) = .error .malformedFrame ∧
    decode c (.frame (fr1 [0x03, 0x10, 0x20] 4)) = .ok (.frRead .fram1 0x1020 4) := by decide

theorem test_decode_requests_low :
    decodesTo (.request 0x00000001) .req0CapTrip ∧ decodesTo (.request 0x00000002) .req1CapAlarm ∧
    decodesTo (.request 0x00000004) .req2CapExt ∧ decodesTo (.request 0x00000008) .req3EidWrite ∧
    decodesTo (.request 0x00000010) .req4EidRead ∧ decodesTo (.request 0x00000020) .req5PeakWrite ∧
    decodesTo (.request 0x00000040) .req6PeakRead ∧ decodesTo (.request 0x00000080) .req7DlogErase ∧
    decodesTo (.request 0x00000100) .req8DlogWrite ∧ decodesTo (.request 0x00000200) .req9TscaleWrite ∧
    decodesTo (.request 0x00000400) .req10TscaleRead ∧ decodesTo (.request 0x00000800) .req11CalUnlock ∧
    decodesTo (.request 0x00001000) .req12CalAfeWrite ∧ decodesTo (.request 0x00002000) .req13CalAdcWrite ∧
    decodesTo (.request 0x00004000) .req14CalInjWrite ∧ decodesTo (.request 0x00008000) .req15CalAfeRead := by decide

theorem test_decode_requests_high :
    decodesTo (.request 0x00010000) .req16CalAdcRead ∧ decodesTo (.request 0x00020000) .req17CalInjRead ∧
    decodesTo (.request 0x00040000) .req18FlashRead ∧ decodesTo (.request 0x00080000) .req19FramRead ∧
    decodesTo (.request 0x00100000) .req20FramWrite ∧ decodesTo (.request 0x00200000) .req21SectorErase ∧
    decodesTo (.request 0x00400000) .req22BlockErase ∧ decodesTo (.request 0x00800000) .req23Unassigned ∧
    decodesTo (.request 0x01000000) .req24Unassigned ∧ decodesTo (.request 0x02000000) .req25Unassigned ∧
    decodesTo (.request 0x04000000) .req26Unassigned ∧ decodesTo (.request 0x08000000) .req27Unassigned ∧
    decodesTo (.request 0x10000000) .req28Unassigned ∧ decodesTo (.request 0x20000000) .req29Unassigned ∧
    decodesTo (.request 0x40000000) .req30Unassigned ∧ decodesTo (.request 0x80000000) .req31Unassigned := by decide

theorem test_decode_rejects_by_name :
    rejectedAs (.request 0) .noRequest ∧ rejectedAs (.frame (fl [])) .emptyFrame ∧
    rejectedAs (.frame (fl [0x9F] 3)) .unknownOpcode ∧ rejectedAs (.frame (fr1 [0x05] 1)) .unknownOpcode ∧
    rejectedAs (.frame (fl [0x20, 0x12])) .malformedFrame ∧ rejectedAs (.frame (fr2 [0x03, 0x10] 4)) .malformedFrame ∧
    rejectedAs (.frame (fl [0x02, 0x01, 0x50, 0x00, 0x12])) .malformedFrame := by decide

theorem test_table_words :
    decodeTableWord 8 0x06 = some .flWren ∧ decodeTableWord 8 0xD8 = some (.flBe 0) ∧
    decodeTableWord 32 0x80000000 = some .req31Unassigned ∧ decodeTableWord 16 0x0100 = some .req8DlogWrite := by decide

/-! ### Checksum codec (vectors K1-K13) -/

theorem test_checksum_vectors :
    checksum [0xFFFFFFFF, 2] = 1 ∧ complement 6 = 0xFFFFFFF9 ∧ encodeRecord [5, 0] = [5, 0, 5, 0xFFFFFFFA] ∧
    checksum [0xDEADBEEF, 0x11111111, 0x22222222] = 0x11E0F222 ∧ complement 0x11E0F222 = 0xEE1F0DDD := by decide

theorem test_valid_vectors :
    validRecord [1, 2, 3, 6, 0xFFFFFFF9] 3 = true ∧ validRecord [1, 2, 3, 6, 0xFFFFFFF8] 3 = false ∧
    validRecord [0xFFFFFFFF, 0xFFFFFFFF, 0xFFFFFFFF, 0xFFFFFFFF] 2 = false ∧ validRecord [0, 0, 0, 0] 2 = false ∧
    validRecord [4, 0, 5, 0xFFFFFFFA] 2 = false ∧ validRecord [0x80000000, 0x80000000, 0, 0xFFFFFFFF] 2 = true ∧
    validRecord [0, 5, 5, 0xFFFFFFFA] 2 = true := by decide

/-! ### Addresses (vectors A1-A8 of the address table) -/

theorem test_address_vectors :
    sectorOf 0x1234 = 0x123 ∧ pageField 0x1234 = 4 ∧ blockOf Config.defaults 0x1234 = 0x12 ∧ nextPage 0x100F = 0x1010 ∧
    nextPage 0xFFFF = 0 ∧ flashCopyAddr Config.defaults ⟨.calAfeWrite, .calWrite, [.flash], 0xFFC0, 1⟩ true = 0x0040 ∧
    framCopyAddr Config.defaults ⟨.peakWrite, .rrWrite, [.fram1], 0x7FF0, 1⟩ .fram1 true = 0x3FF0 ∧ ctxOffset 14 0 = 0x8000 := by decide

/-! ### Device frames (vectors F1-F11) -/

/-- F1, F2. -/
theorem test_flWren :
    leads (exec .flWren State.reset) (fun t => t.flash.wel) ∧
    leads (exec .flWren ((busyWith (.eraseSector 1) State.reset).setFlash
      ⟨[], false, true, some (.eraseSector 1), false⟩)) (fun t => !t.flash.wel) := by decide

/-- F6. -/
theorem test_flRdsr :
    leads (exec .flRdsr (busyWith (.eraseSector 1) State.reset)) (fun t => t.port.rx.busy t.cfg) ∧
    leads (exec .flRdsr State.reset) (fun t => !t.port.rx.busy t.cfg) := by decide

/-- F3, F5. -/
theorem test_flPp :
    leads (exec (.flPp 0x0150 [0x1234, 0x5678]) (enabledFlash State.reset)) (fun t =>
      t.flash.busy && t.flash.op == some (.program 0x015000 [0x12, 0x34, 0x56, 0x78]) && t.flash.array == []) ∧
    leads (exec (.flPp 0x0020 [0x1234]) (enabledFlash (protectedState State.reset))) (fun t =>
      !t.flash.busy && !t.flash.wel && t.flash.op == none) := by decide

/-- E2, A15. -/
theorem test_flSe :
    leads (exec (.flSe 0x1234) (enabledFlash State.reset)) (fun t => t.flash.op == some (.eraseSector 0x123)) ∧
    leads (exec (.flSe 0x0003) (enabledFlash (protectedState State.reset))) (fun t => !t.flash.busy && !t.flash.wel) := by
  decide

/-- A14, and a protected block (rule R125: block 0x00 intersects CAL). -/
theorem test_flBe :
    leads (exec (.flBe 0x1234) (enabledFlash State.reset)) (fun t => t.flash.op == some (.eraseBlock 0x12)) ∧
    leads (exec (.flBe 0x00F0) (enabledFlash (protectedState State.reset))) (fun t => !t.flash.busy && !t.flash.wel) := by
  decide

/-- F7. -/
theorem test_flUlbpr :
    leads (exec .flUlbpr (enabledFlash (protectedState State.reset))) (fun t => !t.flash.bp && !t.flash.wel) ∧
    leads (exec .flUlbpr (protectedState State.reset)) (fun t => t.flash.bp) := by decide

/-- F8. -/
theorem test_flProtect :
    leads (exec (.flProtect [0xAA]) (enabledFlash State.reset)) (fun t => t.flash.bp && !t.flash.wel) ∧
    leads (exec (.flProtect []) State.reset) (fun t => !t.flash.bp) := by decide

/-- A11; and rule R72: the address runs on from 0xFFFFFF to 0. -/
theorem test_flRead :
    leads (exec (.flRead 0x015000 2) (State.reset.setFlash ⟨[(0x015000, 0x12), (0x015001, 0x34)], false, false, none, false⟩))
      (fun t => t.port.rx == .data [0x12, 0x34, 0xFF, 0xFF]) ∧
    leads (exec (.flRead 0xFFFFFF 1) (State.reset.setFlash ⟨[(0, 0x56), (0xFFFFFF, 0x78)], false, false, none, false⟩))
      (fun t => t.port.rx == .data [0x78, 0x56]) := by decide +kernel

/-- F9. -/
theorem test_frWren :
    leads (exec (.frWren .fram1) State.reset) (fun t => t.fram1.wel && !t.fram2.wel) ∧
    leads (exec (.frWren .fram2) State.reset) (fun t => t.fram2.wel && !t.fram1.wel) := by decide

/-- F9, F10. -/
theorem test_frWrite :
    leads (exec (.frWrite .fram1 0x1000 [0xBE, 0xEF]) (State.reset.setFram .fram1 ⟨[], true⟩)) (fun t =>
      t.fram1 == ⟨[(0x1000, 0xBE), (0x1001, 0xEF)], false⟩) ∧
    leads (exec (.frWrite .fram2 0x1000 [0xBE, 0xEF]) State.reset) (fun t => t.fram2 == ⟨[], false⟩) := by decide

/-- R2's frame; and rule R62: 0x7FFF is followed by 0x0000. -/
theorem test_frRead :
    leads (exec (.frRead .fram1 0 4) (fram1With 0 record50 State.reset)) (fun t => t.port.rx == .data [0, 0, 0, 5]) ∧
    leads (exec (.frRead .fram2 0x7FFF 2) (State.reset.setFram .fram2 ⟨[(0, 1), (0x7FFF, 2)], false⟩))
      (fun t => t.port.rx == .data [2, 1]) := by decide

/-- F4, F11. -/
theorem test_completion :
    leads (act .done (busyWith (.eraseSector 0x123) (State.reset.setFlash
      ⟨[(0x122FFF, 1), (0x123000, 2), (0x123FFF, 3), (0x124000, 4)], false, false, none, false⟩))) (fun t =>
        t.flash == ⟨[(0x122FFF, 1), (0x124000, 4)], false, false, none, false⟩) ∧
    leads (act .done (busyWith (.program 0x015000 [0xAB]) (State.reset.setFlash
      ⟨[(0x015000, 0x0F)], false, false, none, false⟩))) (fun t => t.flash.array.read 0x015000 == 0x0B) := by decide +kernel

/-! ### Captures (vectors W1-W11) -/

/-- W1, W9. -/
theorem test_req0CapTrip_begins :
    leads (exec .req0CapTrip ((asked 0 fun c => { c with addr := 0x1000, rstart := 4000 }).setRing ⟨[], 100, false⟩))
      (fun t => (t.ctxAt 0).nzero == 96 && (t.ctxAt 0).needErase && t.lockV && t.port.sent == [fl [0x06]]) ∧
    leads (exec .req0CapTrip (asked 0 fun c => { c with abort := true })) (fun t =>
      (t.ctxAt 0).status == .aborted && (t.ctxAt 0).phase == .idle && t.req == 0 && t.port.sent == []) := by decide

/-- W6, W8: the poll that reads not-busy commits the page; an abort that waits then retires the capture. -/
theorem test_req0CapTrip_commits :
    leads (exec .req0CapTrip (inside 0 .issued fun c => { c with opi := 1, count := 7, pend := 7, addr := 0x100F }))
      (fun t => (t.ctxAt 0).count == 14 && (t.ctxAt 0).addr == 0x1010 && (t.ctxAt 0).needErase && !t.lockV) ∧
    leads (exec .req0CapTrip
      (inside 0 .issued fun c => { c with opi := 1, count := 70, pend := 7, addr := 0x100A, abort := true }))
      (fun t => (t.ctxAt 0).count == 77 && (t.ctxAt 0).status == .aborted && t.req == 0) := by decide

/-- W3: sample-sets below NZERO are zeros, then the ring's slots follow in order. -/
theorem test_req1CapAlarm_page :
    leads (exec .req1CapAlarm ((inside 1 .enabled fun c =>
        { c with opi := 1, op := .prog 0x1000 54, count := 94, pend := 3, addr := 0x1000, nzero := 96, rstart := 4000 }).setRing
          ⟨[(0, List.replicate 18 0xAAAA)], 100, false⟩))
      (fun t => t.port.sent ==
        [fl ([0x02, 0x10, 0x00, 0x00] ++ List.replicate 72 0 ++ List.replicate 36 0xAA)]) := by decide +kernel

/-- W7. -/
theorem test_req1CapAlarm_abort :
    leads (exec .req1CapAlarm (asked 1 fun c => { c with phase := .run, count := 14, abort := true })) (fun t =>
      (t.ctxAt 1).status == .aborted && (t.ctxAt 1).count == 14 && t.req == 0 && t.ack == 0) := by decide

/-- W4, W5: the last page carries three sample-sets and completes the capture. -/
theorem test_req2CapExt_ends :
    leads (exec .req2CapExt (asked 2 fun c => { c with phase := .run, count := 2877 })) (fun t =>
      (t.ctxAt 2).pend == 3 && (t.ctxAt 2).opi == 1 && (t.ctxAt 2).fs == .enabled) ∧
    leads (exec .req2CapExt (inside 2 .issued fun c => { c with opi := 1, count := 2877, pend := 3, addr := 0x119B }))
      (fun t => (t.ctxAt 2).count == 0xB40 && (t.ctxAt 2).addr == 0x119C && (t.ctxAt 2).status == .ok && t.ack == 4) := by
  decide

/-! ### Redundant records (vectors R1-R11) -/

/-- R1, slices 1 and 2. -/
theorem test_req3EidWrite :
    leads (exec .req3EidWrite (asked 3 id)) (fun t => t.port.sent == [fr1 [0x06]] && t.lockV && t.lockK == 3) ∧
    leads (exec .req3EidWrite (inside 3 .enabled fun c =>
        { withPayload [5, 0] c with op := .fram .fram1 0 8 })) (fun t =>
      t.port.sent == [fr1 ([0x02, 0x00, 0x00] ++ record50)] && (t.ctxAt 3).opi == 1 && !t.lockV) := by decide

/-- R2, R3. -/
theorem test_req4EidRead :
    leads (exec .req4EidRead (fram1With 0 record50 (asked 4 id))) (fun t =>
      (t.ctxAt 4).val.toList.take 2 == [5, 0] && (t.ctxAt 4).src == .primary && t.ack == 0x10) ∧
    leads (exec .req4EidRead (fram1With 0x4000 record50 (asked 4 fun c => { c with phase := .run, opi := 1 }))) (fun t =>
      (t.ctxAt 4).val.toList.take 2 == [5, 0] && (t.ctxAt 4).src == .secondary && (t.ctxAt 4).status == .ok) := by decide

/-- Rules R9, R170: an FRAM of 128 KiB: the copies of task 3 at 0x012340 and, modulo 0x20000, at 0x002340. -/
theorem test_wide_fram_record :
    let s (second : Bool) : State := { asked 3 (fun c => { c with phase := .run, opi := if second then 1 else 0 }) with cfg := wideFram }
    leads (exec .req3EidWrite (s false)) (fun t => (t.ctxAt 3).op == .fram .fram2 0x012340 8) ∧
    leads (exec .req3EidWrite (s true)) (fun t => (t.ctxAt 3).op == .fram .fram2 0x002340 8) ∧
    leads (exec .req3EidWrite { inside 3 .enabled (fun c => { withPayload [5, 0] c with op := .fram .fram2 0x012340 8 }) with
      cfg := wideFram }) (fun t => t.port.sent == [fr2 ([0x02, 0x01, 0x23, 0x40] ++ record50)]) := by decide

/-- Rule R170: the secondary copy of task 5 lies at 0x4020. -/
theorem test_req5PeakWrite :
    leads (exec .req5PeakWrite (inside 5 .enabled fun c => { c with opi := 1, op := .fram .fram1 0x4020 36 })) (fun t =>
      t.port.sent == [fr1 ([0x02, 0x40, 0x20] ++ List.replicate 68 0 ++ [0xFF, 0xFF, 0xFF, 0xFF])] &&
        (t.ctxAt 5).status == .ok) := by decide +kernel

/-- R10: an invalid primary leaves the task running at OPI = 1. -/
theorem test_req6PeakRead :
    leads (exec .req6PeakRead (asked 6 id)) (fun t =>
      (t.ctxAt 6).phase == .run && (t.ctxAt 6).opi == 1 && t.port.sent == [fr1 [0x03, 0x00, 0x20] 72] && t.ack == 0) := by
  decide

/-- R6. -/
theorem test_req9TscaleWrite :
    leads (exec .req9TscaleWrite (inside 9 .enabled fun c =>
        { withPayload [0x00010000] c with op := .fram .fram1 0x0080 6 })) (fun t =>
      t.port.sent == [fr1 [0x02, 0x00, 0x80, 0x00, 0x01, 0x00, 0x00, 0x00, 0x01, 0x00, 0x00, 0xFF, 0xFE, 0xFF, 0xFF]]) := by
  decide

/-- R4: both copies invalid. -/
theorem test_req10TscaleRead :
    leads (exec .req10TscaleRead (asked 10 fun c => { c with phase := .run, opi := 1, dflt := c.dflt.set 0 7 })) (fun t =>
      (t.ctxAt 10).val.get 0 == 7 && (t.ctxAt 10).src == .default && t.sflt == 0x400 &&
        (t.ctxAt 10).status == .defaulted) := by decide

/-- E5. -/
theorem test_req11CalUnlock :
    leads (exec .req11CalUnlock (asked 11 id)) (fun t => t.port.sent == [fl [0x06]] && t.lockV) ∧
    leads (exec .req11CalUnlock (enabledFlash (protectedState (inside 11 .enabled fun c => { c with op := .unlock })))) (fun t =>
      t.port.sent == [fl [0x98]] && !t.prot && !t.flash.bp && (t.ctxAt 11).status == .ok) := by decide

/-- Rule R179: the erase of the secondary copy's sector at OPI = 2. -/
theorem test_req12CalAfeWrite :
    leads (exec .req12CalAfeWrite (inside 12 .enabled fun c => { c with opi := 2, op := .se 0x0080 })) (fun t =>
      t.port.sent == [fl [0x20, 0x00, 0x80, 0x00]]) := by decide

/-- Rule R179: OPI advances at the poll that reads not-busy. -/
theorem test_req13CalAdcWrite :
    leads (exec .req13CalAdcWrite (inside 13 .issued fun c => { c with opi := 1 })) (fun t =>
      (t.ctxAt 13).opi == 2 && (t.ctxAt 13).fs == .boundary && !t.lockV) := by decide

/-- R7, and the protect step (R8, slice 14). -/
theorem test_req14CalInjWrite :
    leads (exec .req14CalInjWrite (protectedState (asked 14 id))) (fun t =>
      (t.ctxAt 14).status == .writeProtected && t.ack == 0x4000 && t.port.sent == []) ∧
    leads (exec .req14CalInjWrite (enabledFlash (inside 14 .enabled fun c => { c with opi := 4, op := .protect }))) (fun t =>
      t.prot && t.flash.bp && (t.ctxAt 14).status == .ok) := by decide

/-- Rules R170, R175: the frames of the calibration reads. -/
theorem test_req15CalAfeRead :
    leads (exec .req15CalAfeRead (asked 15 id)) (fun t => t.port.sent == [fl [0x03, 0x00, 0x00, 0x00] 136]) := by decide

theorem test_req16CalAdcRead :
    leads (exec .req16CalAdcRead (asked 16 fun c => { c with phase := .run, opi := 1 })) (fun t =>
      t.port.sent == [fl [0x03, 0x00, 0x90, 0x00] 136] && (t.ctxAt 16).status == .defaulted) := by decide

/-- R9's frame. -/
theorem test_req17CalInjRead :
    leads (exec .req17CalInjRead (asked 17 id)) (fun t => t.port.sent == [fl [0x03, 0x00, 0x20, 0x00] 72]) := by decide

/-! ### Generic classes (vectors A2, A3, A10-A15, E2, E3) -/

/-- A15. -/
theorem test_req7DlogErase :
    leads (exec .req7DlogErase (enabledFlash (protectedState (inside 7 .enabled fun c => { c with op := .se 0x0003 }))))
      (fun t => t.port.sent == [fl [0x20, 0x00, 0x03, 0x00]] && !t.flash.busy) ∧
    leads (exec .req7DlogErase (inside 7 .issued id)) (fun t => (t.ctxAt 7).status == .ok && t.ack == 0x80 && !t.lockV) := by
  decide

/-- E1, slices 1 and 2: the address is that of the op boundary, the words those of BUF at the PP slice (rule R242). -/
theorem test_req8DlogWrite :
    leads (exec .req8DlogWrite (asked 8 fun c => { c with addr := 0x1234, n := 2 }))
      (fun t => t.port.sent == [fl [0x06]] && (t.ctxAt 8).op == .prog 0x1234 2) ∧
    leads (exec .req8DlogWrite (inside 8 .enabled fun c =>
      { c with op := .prog 0x1234 2, addr := 0x9999, n := 0, buf := (c.buf.set 0 0xABCD).set 1 0x0102 }))
      (fun t => t.port.sent == [fl [0x02, 0x12, 0x34, 0x00, 0xAB, 0xCD, 0x01, 0x02]] && t.lockV) := by decide

/-- A11, A12. -/
theorem test_req18FlashRead :
    leads (exec .req18FlashRead ((asked 18 fun c => { c with addr := 0x0150, n := 2 }).setFlash
      ⟨[(0x015000, 0x12), (0x015001, 0x34), (0x015002, 0x56), (0x015003, 0x78)], false, false, none, false⟩)) (fun t =>
        (t.ctxAt 18).buf.toList.take 3 == [0x1234, 0x5678, 0] && t.ack == 0x40000) ∧
    leads (exec .req18FlashRead (asked 18 fun c => { c with n := 129 })) (fun t =>
      (t.ctxAt 18).status == .invalidParam && t.port.sent == []) := by decide

/-- A3. -/
theorem test_req19FramRead :
    leads (exec .req19FramRead (asked 19 fun c => { c with dev := 3 })) (fun t =>
      (t.ctxAt 19).status == .invalidParam && t.ack == 0x80000 && t.port.sent == []) := by decide

/-- A13. -/
theorem test_req20FramWrite :
    leads (exec .req20FramWrite (asked 20 fun c => { c with dev := 2, addr := 0x1000, n := 1 })) (fun t =>
      t.port.sent == [fr2 [0x06]]) ∧
    leads (exec .req20FramWrite ((inside 20 .enabled fun c =>
      { c with op := .fram .fram2 0x1000 1, buf := c.buf.set 0 0xBEEF }).setFram .fram2 ⟨[], true⟩)) (fun t =>
        t.port.sent == [fr2 [0x02, 0x10, 0x00, 0xBE, 0xEF]] && t.fram2.array == [(0x1000, 0xBE), (0x1001, 0xEF)]) := by decide

/-- A10; E3: the second busy poll reaches BUSY_POLL_LIMIT = 2. -/
theorem test_req21SectorErase :
    leads (exec .req21SectorErase ((inside 21 .issued id).setReq 0)) (fun t =>
      (t.ctxAt 21).status == .ok && (t.ctxAt 21).phase == .idle && t.ack == 0) ∧
    leads (exec .req21SectorErase { (busyWith (.eraseSector 0x123) (inside 21 .issued fun c => { c with polls := 1 })) with
      cfg := { Config.defaults with busyPollLimit := some 2 } }) (fun t =>
        (t.ctxAt 21).status == .timeout && (t.ctxAt 21).polls == 2 && !t.lockV && t.flash.busy) := by decide

/-- A14. -/
theorem test_req22BlockErase :
    leads (exec .req22BlockErase (enabledFlash (inside 22 .enabled fun c => { c with op := .be 0x1234 }))) (fun t =>
      t.port.sent == [fl [0xD8, 0x12, 0x34, 0x00]] && t.flash.op == some (.eraseBlock 0x12)) := by decide

/-- A2, for every unassigned bit. -/
theorem test_unassigned_bits :
    ([(23, Instr.req23Unassigned), (24, .req24Unassigned), (25, .req25Unassigned), (26, .req26Unassigned),
      (27, .req27Unassigned), (28, .req28Unassigned), (29, .req29Unassigned), (30, .req30Unassigned),
      (31, .req31Unassigned)] : List (Task × Instr)).all (fun p =>
        leads (exec p.2 (asked p.1 id)) fun t =>
          (t.ctxAt p.1).status == .invalidParam && t.ack == requestWord p.1 && t.port.sent == []) = true := by decide

/-! ### Ticks and the other agents (vectors A1, A5-A9, A16) -/

/-- A1, A16. -/
theorem test_release :
    leads (step (State.reset.setAck 0x08)) (fun t => t.ack == 0 && t.port.sent == []) ∧
    leads (step ((State.reset.setAck 0x10).setReq 0x10)) (fun t => t.ack == 0x10 && t.port.sent == []) := by decide

/-- A7, A6. -/
theorem test_supersede :
    leads (step (State.reset.setReq 7)) (fun t =>
      t.req == 1 && (t.ctxAt 1).status == .aborted && (t.ctxAt 2).status == .aborted && (t.ctxAt 0).phase == .run) ∧
    leads (step ((asked 1 fun c => { c with phase := .run, count := 70 }).setReq 3)) (fun t =>
      t.req == 1 && (t.ctxAt 1).count == 70 && t.port.sent == [fl [0x06]] && t.lockK == 0) := by decide

/-- A5: the LOCK holder finishes unacknowledged behind a pending task of higher priority. -/
theorem test_finish_waits :
    leads (step ((inside 8 .issued id).setReq 0x110)) (fun t => (t.ctxAt 8).phase == .finish && t.ack == 0) := by decide

/-- Rule R22: the host's view; A8 of the address table for the offsets. -/
theorem test_host_access :
    leads (act (.hostWrite .word 0x2900 5) State.reset) (fun t => (t.ctxAt 3).val.get 0 == 5) ∧
    leads (act (.hostRead .word 0x014) ((State.reset.setSflt 0x10).takeLock 3)) (fun t => t.env.hostData == 0x283) ∧
    (match act (.hostWrite .byte 0x004 1) State.reset with
     | .refused .narrowHostAccess => true
     | _ => false) = true ∧
    (match act (.hostRead .word 0x006) State.reset with
     | .refused .misalignedHostAccess => true
     | _ => false) = true := by decide

/-- A build with REQ_W = 23: bit 23 of REQ_SET names no request, and CTX[23] is not in the map. -/
theorem test_narrow_request_word :
    leads (act (.hostWrite .word 0x004 0xFFFFFFFF) (narrow 23 State.reset)) (fun t => t.req == 0x007FFFFF) ∧
    leads (act (.hostWrite .word 0xC804 5) (narrow 23 State.reset)) (fun t => (t.ctxAt 23).addr == 0 && t.req == 0) ∧
    leads (act (.hostWrite .word 0xC004 5) (narrow 23 State.reset)) (fun t => (t.ctxAt 22).addr == 5) := by decide +kernel

/-- E1's `W CTX[8].ADDR = 0x1234` and `W CTX[8].N = 2`, one field each: the second write keeps the first one's bits. The
words are those of rule R22's ARG. -/
theorem test_script_request :
    scriptRequest 8 [.addr 0x1234, .n 2] =
      [.hostWrite .word 0x5004 0x00001234, .hostWrite .word 0x5004 0x02001234, .hostWrite .word 0x004 0x100] := by decide

/-- Rule R46: the push that wraps raises RING_FILLED. -/
theorem test_push_wraps :
    leads (act (.push (List.replicate 18 0x1111)) (State.reset.setRing ⟨[], 4095, false⟩)) (fun t =>
      t.ring == ⟨[(4095, List.replicate 18 0x1111)], 0, true⟩) := by decide

/-! ### Witnesses: for each statement with hypotheses, a state and operands that meet them all, clause by clause -/

/-- Task `k` running at op boundary, its request still raised. -/
def between (k : Task) (f : Ctx → Ctx) : State := asked k fun c => { f c with phase := .run }

/-- The reset state with the actions `l` to come. -/
def scripted (l : List Action) (s : State) : State := s.setEnv { s.env with inputs := l }

/-- The state with a poll limit. -/
def limited (n : Nat) (s : State) : State := { s with cfg := { s.cfg with busyPollLimit := some n } }

/-- The state with row `k` of TASKCFG replaced. -/
def withRow (k : Task) (c : TaskCfg) (s : State) : State := { s with cfg := { s.cfg with tasks := s.cfg.tasks.set k.val c } }

/-- Task `k` and no other inside a device operation, that of its class's sequence. -/
theorem opOk_inside (k : Task) (fs : SubStep) (f : Ctx → Ctx) (h : ((inside k fs f).ctxAt k).op ≠ .none)
    (hs : (inside k fs f).SequenceOp k) : (inside k fs f).OpOk := by
  intro j hj
  by_cases e : j = k
  · subst e; exact ⟨h, hs⟩
  · refine absurd ?_ hj
    have hk : k.val ≠ j.val := fun h => e (Fin.ext h.symm)
    simp [inside, asked, State.takeLock, State.modCtx, State.setCtx, State.setReq, State.ctxAt, Vector.get_eq_getElem, hk,
      State.reset, State.powerUp, Ctx.reset]

theorem test_witness_DecodeInvertsEncode :
    Config.commands.distinct = true ∧ (Instr.flRead 0xFFFFFF 128).addressFits Config.commands = true ∧
    (Instr.frRead .fram1 0xFF 1).addressFits { Config.commands with fram1AddrBytes := 1 } = true ∧
    (Instr.frRead .fram2 0xFFFFFF 1).addressFits { Config.commands with fram2AddrBytes := 3 } = true ∧
    3 ≤ Config.commands.flashAddrBytes ∧ (2 ≤ Config.commands.addrBytesOf .fram1 ∧ (0xFFFF : FramAddr).toNat < 65536) ∧
    3 ≤ ({ Config.commands with fram2AddrBytes := 3 } : Commands).addrBytesOf .fram2 ∧
    (Instr.flPp 0xFFFF (List.replicate 128 0xFFFF)).WellFormed ∧ (Instr.flPp 0 [0]).WellFormed ∧
    (Instr.frWrite .fram2 0xFFFF (List.replicate 256 0xFF)).WellFormed ∧ (Instr.flRead 0xFFFFFF 128).WellFormed ∧
    (Instr.frRead .fram1 0 1).WellFormed ∧ Instr.req31Unassigned.WellFormed := by decide +kernel

theorem test_witness_EncodeInvertsDecodeFrame :
    decodeFrame Config.commands (fl [0x20, 0x12, 0x34, 0x00]) = .ok (.flSe 0x1234) ∧
    decodeFrame Config.commands (fr2 [0x03, 0xFF, 0xFF] 256) = .ok (.frRead .fram2 0xFFFF 256) := by decide

theorem test_witness_TickRunsDecodedInstruction :
    (asked 31 id).port.bus = none ∧ (asked 31 id).env.inputs = [] ∧
    decode (asked 31 id).cfg.cmds (.request (selectedWord (arbitrate (asked 31 id)))) = .ok .req31Unassigned ∧
    (scripted [.tick []] (asked 0 id)).port.bus = none ∧ (scripted [.tick []] (asked 0 id)).env.inputs = .tick [] :: [] ∧
    decode (asked 0 id).cfg.cmds (.request (selectedWord (arbitrate (scripted [] (asked 0 id))))) = .ok .req0CapTrip ∧
    (scripted [.done, .power] State.reset).env.inputs = .done :: [.power] := by decide

theorem test_witness_TickServesLockHolderElseScan :
    (arbitrate (inside 31 .issued id)).lockV = true ∧
    ((arbitrate (State.reset.setReq 0x80000008)).lockV = false ∧
      isPending (arbitrate (State.reset.setReq 0x80000008)) 3 = true ∧
      ∀ j, j < 3 → isPending (arbitrate (State.reset.setReq 0x80000008)) j = false) ∧
    ((arbitrate (asked 31 id)).lockV = false ∧ isPending (arbitrate (asked 31 id)) 31 = true ∧
      ∀ j, j < 31 → isPending (arbitrate (asked 31 id)) j = false) ∧
    ((arbitrate State.reset).lockV = false ∧ ∀ k, isPending (arbitrate State.reset) k = false) := by decide

theorem test_witness_WireFrameRunsOrIsIgnored :
    (State.reset.withCode (.frame (fl [0x06]))).port.bus = some (fl [0x06]) ∧ decode State.reset.cfg.cmds (.frame (fl [0x06])) = .ok .flWren ∧
    decode State.reset.cfg.cmds (.frame (fl [0x9F] 3)) = .error .unknownOpcode ∧ ¬(Instr.flPp 0 []).WellFormed ∧
    ¬(Instr.frRead .fram1 0 257).WellFormed := by decide

theorem test_witness_IdleTickSettles :
    (State.reset.setAck 0x10).port.bus = none ∧ (State.reset.setAck 0x10).env.inputs = [] ∧
    (State.reset.setAck 0x10).env.between = [] ∧ (State.reset.setAck 0x10).lockV = false ∧
    ∀ k, isPending (arbitrate (State.reset.setAck 0x10)) k = false := by decide

/-- A page, a sector and a block at the edges of the CAL region: `hit` is true for each. -/
theorem test_witness_FlashCommandsStartOperation :
    (Instr.flPp 0x0150 [0x1234]).WellFormed ∧ (Instr.flSe 0xFFFF).WellFormed ∧ (Instr.flBe 0x00FF).WellFormed ∧
    (∃ p words, Instr.flPp 0x0150 [0x1234] = .flPp p words ∧
      FlashOp.program 0x015000 [0x12, 0x34] = .program (p ++ 0#8) (halvesBytes words) ∧
      0x15 = (p.extractLsb' 4 12).toNat ∧ 1 = 1) ∧
    (∃ p, Instr.flSe 0xFFFF = .flSe p ∧ FlashOp.eraseSector 0xFFF = .eraseSector (p.extractLsb' 4 12) ∧
      0xFFF = (p.extractLsb' 4 12).toNat ∧ 1 = 1) ∧
    (∃ p blk, Instr.flBe 0x00FF = .flBe p ∧
      blk = BitVec.ofNat 12 ((p.extractLsb' 4 12).toNat / State.reset.cfg.blockSectors) ∧
      FlashOp.eraseBlock 0 = .eraseBlock blk ∧ 0 = blk.toNat * State.reset.cfg.blockSectors ∧
      16 = State.reset.cfg.blockSectors) ∧
    (true = true ↔ ∃ r ∈ State.reset.cfg.regions, r.kind = .cal ∧
      ∃ sector, 0 ≤ sector ∧ sector < 0 + 16 ∧ r.first ≤ sector ∧ sector ≤ r.last) :=
  ⟨by decide, by decide, by decide, ⟨_, _, rfl, by decide, by decide, rfl⟩, ⟨_, rfl, by decide, by decide, rfl⟩,
    ⟨_, _, rfl, rfl, by decide, by decide, rfl⟩,
    ⟨fun _ => ⟨⟨.cal, 0x000, 0x00F⟩, by decide, rfl, 15, by decide⟩, fun _ => rfl⟩⟩

theorem test_witness_ProtectionFramesWriteBp :
    (Instr.flUlbpr = .flUlbpr ∧ false = false) ∧ (∃ data, Instr.flProtect [0xAA] = .flProtect data ∧ true = true) :=
  ⟨⟨rfl, rfl⟩, _, rfl, rfl⟩

theorem test_witness_read_and_write_frames :
    State.reset.flash.busy = false ∧ (State.reset.fram .fram1).wel = false ∧
    ((State.reset.setFram .fram2 ⟨[], true⟩).fram .fram2).wel = true ∧ (busyWith (.eraseSector 1) State.reset).flash.busy = true ∧
    (1 ≤ 1 ∧ 128 ≤ 128 ∧ 256 ≤ 256 ∧ 1 ≤ ([0xAB] : List Byte).length) := by decide

theorem test_witness_CompletionAppliesOperation :
    ∀ op ∈ [FlashOp.program 0xFFFF00 [0xAB], .eraseSector 0xFFF, .eraseBlock 0],
      (scripted [.done] (busyWith op State.reset)).port.bus = none ∧
      (scripted [.done] (busyWith op State.reset)).env.inputs = .done :: [] ∧
      (scripted [.done] (busyWith op State.reset)).flash.busy = true ∧
      (scripted [.done] (busyWith op State.reset)).flash.op = some op := by decide

theorem test_witness_PowerLossKeepsArrays :
    (scripted [.power, .tick []] State.reset).port.bus = none ∧
    (scripted [.power, .tick []] State.reset).env.inputs = .power :: [.tick []] ∧ State.reset.flash.busy = false ∧
    (busyWith (.eraseSector 0) State.reset).flash.op = some (.eraseSector 0) := by decide

theorem test_witness_PowerLossInsideFrame :
    (scripted [.powerInFrame] (enabledFlash (inside 21 .enabled fun c => { c with op := .se 0 }))).port.bus = none ∧
    (scripted [.powerInFrame] (enabledFlash (inside 21 .enabled fun c => { c with op := .se 0 }))).env.inputs = .powerInFrame :: [] ∧
    ∃ u, tick (scripted [] (enabledFlash (inside 21 .enabled fun c => { c with op := .se 0 }))) = .next u ∧
      u.port.sent = [fl [0x20, 0x00, 0x00, 0x00]] := ⟨by decide, by decide, _, rfl, by decide⟩

theorem test_witness_RecordErrorDetection :
    (0 : Nat) < ([5, 0] : List Word).length + 2 ∧ (0 : Nat) ≠ 1 ∧ (5 : Word).getLsbD 0 = true ∧ (0 : Word).getLsbD 0 = false ∧
    (5 : Word).getLsbD 31 = false ∧ List.Perm [(0 : Word), 5] [5, 0] := by decide

theorem test_witness_AcknowledgeDiscipline :
    ((State.reset.setAck 0x11).setReq 0x30).LockOk ∧ ((State.reset.setAck 0x11).setReq 0x30).AckOk ∧
    (∃ t, tick ((State.reset.setAck 0x11).setReq 0x30) = .next t) ∧
    bitAt ((State.reset.setAck 0x11).setReq 0x30).ack 5 = false ∧ bitAt ((State.reset.setAck 0x11).setReq 0x30).ack 4 = true ∧
    bitAt ((State.reset.setAck 0x11).setReq 0x30).req 5 = true := by
  refine ⟨?_, ?_, ⟨_, rfl⟩, by decide, by decide, by decide⟩ <;> simp only [State.LockOk, State.AckOk] <;> decide

theorem test_witness_PriorityOrder :
    (State.reset.setReq 0x88).LockOk ∧ (∃ t, tick (State.reset.setReq 0x88) = .next t) ∧ (3 : Task) < 7 ∧
    isPending (arbitrate (State.reset.setReq 0x88)) 3 = true ∧ bitAt (State.reset.setReq 0x88).ack 7 = false ∧
    ((State.reset.setReq 0x88).ctxAt 7).phase = .idle := by
  refine ⟨?_, ⟨_, rfl⟩, by decide, by decide, by decide, by decide⟩
  simp only [State.LockOk]; decide

theorem test_witness_SupersedeRule :
    (true = true ↔ ((State.reset.setReq 3).taskCfg 1).cls = .capture ∧ ∃ hi : Task, hi < 1 ∧
      ((State.reset.setReq 3).taskCfg hi).cls = .capture ∧
      bitAt (State.reset.setReq 3).req hi = true ∧ bitAt (State.reset.setReq 3).ack hi = false ∧
      ((State.reset.setReq 3).ctxAt hi).phase = .idle ∧ bitAt (State.reset.setReq 3).req 1 = true ∧
      bitAt (State.reset.setReq 3).ack 1 = false ∧ ((State.reset.setReq 3).ctxAt 1).phase ≠ .finish) := by decide

theorem test_witness_FinishedTaskIsAcknowledged :
    ((asked 31 fun c => { c with phase := .finish }).ctxAt 31).phase = .finish := by decide

/-- Each class of the default TASKCFG, N at 1 and 128. -/
theorem test_witness_FlashTasksBegin :
    (∀ k : Task, (State.reset.ctxAt k).phase = .idle) ∧
    (∀ k ∈ [(7 : Task), 21], (State.reset.taskCfg k).cls = .eraseSector) ∧ (State.reset.taskCfg 22).cls = .eraseBlock ∧
    (State.reset.taskCfg 11).cls = .calUnlock ∧ (State.reset.taskCfg 8).cls = .pageWrite ∧
    ((asked 8 fun c => { c with n := 128 }).ctxAt 8).n.toNat = 128 ∧ ((asked 8 fun c => { c with n := 1 }).ctxAt 8).n.toNat = 1 ∧
    (∀ k ∈ [(12 : Task), 13, 14], (State.reset.taskCfg k).cls = .calWrite ∧ (State.reset.taskCfg k).devs = [.flash] ∧
      1 ≤ (State.reset.taskCfg k).len ∧ (State.reset.taskCfg k).len ≤ State.reset.cfg.lMax ∧ State.reset.prot = false) := by
  decide

theorem test_witness_FramTasksBegin :
    (∀ k ∈ [(3 : Task), 5, 9], (State.reset.ctxAt k).phase = .idle ∧ (State.reset.taskCfg k).cls = .rrWrite ∧
      (State.reset.taskCfg k).devs = [FramSel.fram1.dev] ∧
      1 ≤ (State.reset.taskCfg k).len ∧ (State.reset.taskCfg k).len ≤ State.reset.cfg.lMax) ∧
    (let s := asked 20 fun c => { c with dev := 2, n := 128 }
     (s.ctxAt 20).phase = .idle ∧ (s.taskCfg 20).cls = .framWrite ∧
       devOfSelector (s.ctxAt 20).dev = some FramSel.fram2.dev ∧ FramSel.fram2.dev ∈ (s.taskCfg 20).devs ∧
       1 ≤ (s.ctxAt 20).n.toNat ∧ (s.ctxAt 20).n.toNat ≤ 128) := by decide

/-- Each clause at a boundary: N = 0 and 129, selector 3 and 0, a record row with no device or of length 63. -/
theorem test_witness_InvalidParameterEnds :
    (∀ k : Task, (State.reset.ctxAt k).phase = .idle) ∧
    ((State.reset.taskCfg 8).cls = .pageWrite ∧
      ¬(1 ≤ (State.reset.ctxAt 8).n.toNat ∧ (State.reset.ctxAt 8).n.toNat ≤ 128)) ∧
    ((State.reset.taskCfg 19).cls = .read ∧
      ¬(1 ≤ ((asked 19 fun c => { c with dev := 1, n := 129 }).ctxAt 19).n.toNat ∧
        ((asked 19 fun c => { c with dev := 1, n := 129 }).ctxAt 19).n.toNat ≤ 128)) ∧
    (∀ d ∈ [Dev.flash, .fram1, .fram2], devOfSelector ((asked 18 fun c => { c with dev := 3 }).ctxAt 18).dev = some d →
      d ∉ ((asked 18 fun c => { c with dev := 3 }).taskCfg 18).devs) ∧
    ((State.reset.taskCfg 20).cls = .framWrite ∧
      ∀ d ∈ [Dev.flash, .fram1, .fram2], devOfSelector (State.reset.ctxAt 20).dev = some d →
        d ∉ (State.reset.taskCfg 20).devs ∨ d = .flash) ∧
    (let s := withRow 3 ⟨.eidWrite, .rrWrite, [.fram1], 0, 63⟩ State.reset
     (s.taskCfg 3).cls = .rrWrite ∧ ¬(1 ≤ (s.taskCfg 3).len ∧ (s.taskCfg 3).len ≤ s.cfg.lMax)) ∧
    (let s := withRow 4 ⟨.eidRead, .rrRead, [], 0, 2⟩ State.reset
     (s.taskCfg 4).cls = .rrRead ∧ ∀ d ∈ [Dev.flash, .fram1, .fram2], (s.taskCfg 4).devs ≠ [d]) ∧
    (let s := withRow 12 ⟨.calAfeWrite, .calWrite, [.fram1], 0, 2⟩ State.reset
     (s.taskCfg 12).cls = .calWrite ∧ (s.taskCfg 12).devs ≠ [.flash]) := by decide

theorem test_witness_UnassignedBitEndsInvalid :
    ∀ k ∈ [(23 : Task), 31], ((asked k id).taskCfg k).cls = .unassigned ∧ ((asked k id).ctxAt k).phase = .idle ∧
      (asked k id).scan = some k := by decide

theorem test_witness_FlashCommandSlice :
    (∀ k ∈ [(7 : Task), 21, 12, 0], let s := inside k .enabled fun c => { c with op := .se 0xFFFF }
      (s.ctxAt k).op = .se 0xFFFF ∧ (s.ctxAt k).phase = .run ∧ (s.ctxAt k).fs = .enabled) ∧
    (let s := inside 22 .enabled fun c => { c with op := .be 0xFFFF }
     (s.ctxAt 22).op = .be 0xFFFF ∧ (s.ctxAt 22).phase = .run ∧ (s.ctxAt 22).fs = .enabled) ∧
    (∀ n ∈ [1, 128], let s := inside 8 .enabled fun c => { c with op := .prog 0x1234 n }
      (s.ctxAt 8).op = .prog 0x1234 n ∧ (s.taskCfg 8).cls = .pageWrite ∧ 1 ≤ n ∧ n ≤ 128 ∧
      (s.ctxAt 8).phase = .run ∧ (s.ctxAt 8).fs = .enabled) := by decide

/-- Each of the first four operations of a calibration write, at its command and at its poll. -/
theorem test_witness_calibration_slices :
    ∀ p ∈ [((0 : BitVec 4), DeviceOp.se 0x0020), (1, .prog 0x0020 36), (2, .se 0x00A0), (3, .prog 0x00A0 36)],
      ∀ fs ∈ [SubStep.enabled, .issued],
      let s := inside 14 fs fun c => { c with opi := p.1, op := p.2 }
      (s.taskCfg 14).cls = .calWrite ∧ (s.ctxAt 14).phase = .run ∧ (s.ctxAt 14).fs = fs ∧ (s.ctxAt 14).op = p.2 ∧
        (s.ctxAt 14).opi.toNat < 4 ∧ s.flash.busy = false ∧ 1 ≤ (s.taskCfg 14).len ∧ (s.taskCfg 14).len ≤ 62 := by decide

theorem test_witness_CalibrationCommandSlice :
    (inside 14 .enabled fun c => { c with opi := 3, op := .prog 0x00A0 36 }).OpOk ∧
    (inside 14 .enabled fun c => { c with opi := 0, op := .se 0x0020 }).OpOk :=
  ⟨opOk_inside _ _ _ (by decide) rfl, opOk_inside _ _ _ (by decide) rfl⟩

theorem test_witness_RecordTasksContinue :
    (∀ p ∈ [((0 : BitVec 4), DeviceOp.se 0x0020), (1, .prog 0x0020 36), (2, .se 0x00A0), (3, .prog 0x00A0 36), (4, .protect)],
      let s := between 14 fun c => { c with opi := p.1 }
      (s.taskCfg 14).cls = .calWrite ∧ (s.ctxAt 14).phase = .run ∧ (s.ctxAt 14).fs = .boundary ∧
      ((s.ctxAt 14).opi, p.2) ∈ [((0 : BitVec 4), DeviceOp.se (s.taskCfg 14).packed),
        (1, .prog (s.taskCfg 14).packed (2 * ((s.taskCfg 14).len + 2))),
        (2, .se ((s.taskCfg 14).packed + s.cfg.rrOffFlash)),
        (3, .prog ((s.taskCfg 14).packed + s.cfg.rrOffFlash) (2 * ((s.taskCfg 14).len + 2))), (4, .protect)] ∧
      s.prot = false) ∧
    (∀ k ∈ [(3 : Task), 5, 9], let s := between k fun c => { c with opi := 1 }
      (s.taskCfg k).cls = .rrWrite ∧ (s.ctxAt k).phase = .run ∧ (s.ctxAt k).fs = .boundary ∧
      (s.taskCfg k).devs = [FramSel.fram1.dev]) := by decide

theorem test_witness_busy_polls :
    ∀ k ∈ [(0 : Task), 1, 2, 7, 8, 12, 13, 14, 21, 22],
      let s := busyWith (.eraseSector 1) (inside k .issued fun c => { c with polls := 0xFFFF })
      (s.ctxAt k).phase = .run ∧ (s.ctxAt k).fs = .issued ∧ s.flash.busy = true ∧ s.cfg.busyPollLimit = none ∧
        (limited 0xFFFF s).cfg.busyPollLimit = some 0xFFFF := by decide

theorem test_witness_SingleFlashTaskCompletes :
    ∀ k ∈ [(7 : Task), 8, 21, 22], ((inside k .issued id).taskCfg k).cls ∈ [OpClass.eraseSector, .eraseBlock, .pageWrite] ∧
      ((inside k .issued id).ctxAt k).phase = .run ∧
      ((inside k .issued id).ctxAt k).fs = .issued ∧ (inside k .issued id).flash.busy = false := by decide

theorem test_witness_CalibrationWriteRefused :
    ∀ k ∈ [(12 : Task), 13, 14], (protectedState (asked k id)).prot = true ∧
      ((protectedState (asked k id)).taskCfg k).cls = .calWrite ∧
      ((protectedState (asked k id)).ctxAt k).phase = .idle ∧ ((protectedState (asked k id)).taskCfg k).devs = [.flash] ∧
      1 ≤ ((protectedState (asked k id)).taskCfg k).len ∧ ((protectedState (asked k id)).taskCfg k).len ≤ Config.defaults.lMax ∧
      (protectedState (between k fun c => { c with opi := 3 })).prot = true ∧
      ((protectedState (between k fun c => { c with opi := 3 })).ctxAt k).phase = .run ∧
      ((protectedState (between k fun c => { c with opi := 3 })).ctxAt k).fs = .boundary ∧
      ((protectedState (between k fun c => { c with opi := 3 })).ctxAt k).opi.toNat < 4 := by decide

theorem test_witness_ProtectionStepsComplete :
    (let s := inside 11 .enabled fun c => { c with op := .unlock }
     s.OpOk ∧ (s.taskCfg 11).cls = .calUnlock ∧ (s.ctxAt 11).phase = .run ∧ (s.ctxAt 11).fs = .enabled) ∧
    (let s := inside 14 .enabled fun c => { c with opi := 4, op := .protect }
     s.OpOk ∧ (s.taskCfg 14).cls = .calWrite ∧ (s.ctxAt 14).opi = 4 ∧ (s.ctxAt 14).phase = .run ∧
       (s.ctxAt 14).fs = .enabled) :=
  ⟨⟨opOk_inside _ _ _ (by decide) rfl, by decide⟩, opOk_inside _ _ _ (by decide) rfl, by decide⟩

/-- The primary and the secondary copy of task 5, its FRAM enabled. -/
theorem test_witness_RecordWriteStoresCopy :
    ∀ p ∈ [((0 : BitVec 4), (0x0020 : FramAddr)), (1, 0x4020)],
      let s := (inside 5 .enabled fun c => { c with opi := p.1, op := .fram .fram1 p.2 36 }).setFram .fram1 ⟨[], true⟩
      s.OpOk ∧ (s.taskCfg 5).cls = .rrWrite ∧ (s.taskCfg 5).devs = [FramSel.fram1.dev] ∧ 1 ≤ (s.taskCfg 5).len ∧
        (s.taskCfg 5).len ≤ 62 ∧ (s.ctxAt 5).phase = .run ∧ (s.ctxAt 5).fs = .enabled ∧ (s.ctxAt 5).opi.toNat < 2 ∧
        (s.fram .fram1).wel = true ∧
        p.2 = BitVec.ofNat 24 (((s.taskCfg 5).addr.toNat + if (s.ctxAt 5).opi = 0 then 0 else s.cfg.rrOffFram) %
          s.cfg.framBytes FramSel.fram1.dev) := by
  intro p h
  have hop := fun (q : BitVec 4) (a : FramAddr) hs =>
    opOk_inside 5 .enabled (fun c => { c with opi := q, op := .fram .fram1 a 36 }) (fun e => nomatch e) hs
  simp only [List.mem_cons, List.not_mem_nil, or_false] at h
  rcases h with rfl | rfl <;>
    exact ⟨opOk_congr rfl rfl (hop _ _ fun d => by cases d <;> decide), rfl, rfl, by decide, by decide, rfl, rfl,
      by decide, rfl, rfl⟩

theorem test_witness_FramWriteTaskStores :
    ∀ n ∈ [1, 128], let s := (inside 20 .enabled fun c => { c with op := .fram .fram1 0x7FFF n }).setFram .fram1 ⟨[], true⟩
      (s.taskCfg 20).cls = .framWrite ∧ (s.ctxAt 20).phase = .run ∧ (s.ctxAt 20).fs = .enabled ∧
        (s.ctxAt 20).op = .fram .fram1 0x7FFF n ∧ 1 ≤ n ∧ n ≤ 128 ∧ (s.fram .fram1).wel = true := by decide

theorem test_witness_record_reads :
    ∀ p ∈ [((4 : Task), Dev.fram1), (6, .fram1), (10, .fram1), (15, .flash), (16, .flash), (17, .flash)],
      (State.reset.taskCfg p.1).cls = .rrRead ∧ (State.reset.taskCfg p.1).devs = [p.2] ∧
      1 ≤ (State.reset.taskCfg p.1).len ∧ (State.reset.taskCfg p.1).len ≤ State.reset.cfg.lMax ∧
      (State.reset.taskCfg p.1).len ≤ 62 ∧
      (∀ e ∈ [FramSel.fram1, .fram2], 1 ≤ State.reset.cfg.framBytes e.dev ∧ State.reset.cfg.framBytes e.dev ≤ 65536) ∧
      (State.reset.ctxAt p.1).phase = .idle ∧ ¬(p.2 = .flash ∧ State.reset.flash.busy = true) ∧
      ((between p.1 fun c => { c with opi := 1 }).ctxAt p.1).phase = .run ∧
      ((between p.1 fun c => { c with opi := 1 }).ctxAt p.1).fs = .boundary ∧
      ((between p.1 fun c => { c with opi := 1 }).ctxAt p.1).opi = 1 := by decide

theorem test_witness_GenericReadFillsBuffer :
    ∀ p ∈ [((18 : Task), (0 : BitVec 2), Dev.flash), (19, 1, .fram1), (19, 2, .fram2)], ∀ n ∈ [(1 : BitVec 8), 128],
      let s := asked p.1 fun c => { c with dev := p.2.1, n := n }
      (s.taskCfg p.1).cls = .read ∧ (s.ctxAt p.1).phase = .idle ∧ devOfSelector (s.ctxAt p.1).dev = some p.2.2 ∧
        p.2.2 ∈ (s.taskCfg p.1).devs ∧ 1 ≤ (s.ctxAt p.1).n.toNat ∧ (s.ctxAt p.1).n.toNat ≤ 128 := by decide

theorem test_witness_captures :
    ∀ k ∈ [(0 : Task), 1, 2], (State.reset.taskCfg k).cls = .capture ∧ ((asked k id).ctxAt k).phase = .idle ∧
      ((between k fun c => { c with needErase := true }).ctxAt k).phase = .run ∧
      ((between k fun c => { c with needErase := true }).ctxAt k).fs = .boundary ∧
      ((inside k .enabled fun c => { c with op := .se 0x1000 }).ctxAt k).fs = .enabled ∧
      ((inside k .enabled fun c => { c with op := .se 0x1000 }).ctxAt k).op = .se 0x1000 ∧
      ((inside k .issued id).ctxAt k).phase = .run ∧ ((inside k .issued id).ctxAt k).fs = .issued ∧
      (inside k .issued id).flash.busy = false := by decide

/-- A page of three sample-sets, two of them zeros, one read from the ring with a push that falls after it. -/
theorem test_witness_CaptureCommandSlice :
    let s := (inside 1 .enabled fun c =>
      { c with opi := 1, op := .prog 0x1000 54, count := 94, pend := 3, nzero := 96, rstart := 4000 }).setEnv
        ⟨[], [[List.replicate 18 0xAAAA]], 0, 0⟩
    (s.taskCfg 1).cls = .capture ∧ (s.ctxAt 1).phase = .run ∧ (s.ctxAt 1).fs = .enabled ∧
      (s.ctxAt 1).op = .prog 0x1000 54 ∧ (s.ctxAt 1).pend ≠ 0 ∧ s.cfg.Ok ∧ s.memoryOk = true ∧ s.env.between ≠ [] ∧
      (s.ctxAt 1).count.toNat + (s.ctxAt 1).pend.toNat -
        max (s.ctxAt 1).nzero.toNat (s.ctxAt 1).count.toNat = 1 := by decide

theorem test_witness_memory_invariant :
    State.reset.cfg.Ok ∧ (inside 0 .enabled fun c => { c with op := .se 0x1000 }).memoryOk = true ∧ ∃ t, step (inside 0 .enabled fun c => { c with op := .se 0x1000 }) = .next t :=
  ⟨by decide, by decide, _, rfl⟩

/-- A running holder with the Flash busy: the premises of the invariant statements, and a step from it. -/
theorem test_witness_invariants :
    let s := busyWith (.eraseSector 1) (inside 21 .issued fun c => { c with op := .se 0x0010 })
    s.LockOk ∧ s.AckOk ∧ s.OpOk ∧ s.FlashOk ∧ s.FlashHeld ∧ s.CapturesOk ∧ s.cfg.busyPollLimit = none ∧
      s.port.bus = none ∧ s.flash.busy = true ∧ (∃ t, step s = .next t) ∧ ∃ t, tick s = .next t := by
  refine ⟨?_, ?_, opOk_congr rfl rfl (opOk_inside 21 .issued (fun c => { c with op := .se 0x0010 }) (by decide) trivial), ?_, ?_, ?_,
    by decide, by decide, by decide, ⟨_, rfl⟩, ⟨_, rfl⟩⟩ <;>
    simp only [State.LockOk, State.AckOk, State.FlashOk, State.FlashHeld, State.CapturesOk, Ctx.captureOk] <;> decide

theorem test_witness_HostAccessOwnership :
    Width.byte ≠ .word ∧ (0x006 : Word).toNat % 4 ≠ 0 ∧ (0x10FFC : Word).toNat % 4 = 0 ∧
    ((asked 0 fun c => { c with abort := true }).ctxAt 0).abort = true := by decide

/-- Unmapped offsets: after the global registers, in a context's gaps, and past the last context. -/
theorem test_witness_HostAccessOwnership_unmapped :
    ∀ off ∈ [(0x01C : Word), 0x1014, 0x11F8, 0x12F8, 0x10FFC, 0x11000], off.toNat % 4 = 0 ∧
      ¬(off.toNat ≤ 0x018 ∨ 0x1000 ≤ off.toNat ∧ off.toNat < 0x11000 ∧ (off.toNat - 0x1000) / 0x800 < State.reset.cfg.reqW ∧
        ((off.toNat - 0x1000) % 0x800 ≤ 0x010 ∨
          0x100 ≤ (off.toNat - 0x1000) % 0x800 ∧ (off.toNat - 0x1000) % 0x800 < 0x1F8 ∨
          0x200 ≤ (off.toNat - 0x1000) % 0x800 ∧ (off.toNat - 0x1000) % 0x800 < 0x2F8 ∨
          0x400 ≤ (off.toNat - 0x1000) % 0x800 ∧ (off.toNat - 0x1000) % 0x800 < 0x600)) := by
  intro off h
  simp only [List.mem_cons, List.not_mem_nil, or_false] at h
  rcases h with rfl | rfl | rfl | rfl | rfl | rfl <;> simp

/-- With REQ_W = 23, the first register of the context area that bit 23 would have. -/
theorem test_witness_HostAccessOwnership_narrow :
    (0xC800 : Word).toNat % 4 = 0 ∧ ¬((0xC800 : Word).toNat - 0x1000) / 0x800 < (narrow 23 State.reset).cfg.reqW := by decide

/-- The first context's RST, and the last words of VAL, DFLT and BUF of the last context. -/
theorem test_witness_HostAccessOwnership_mapped :
    (31 : Task).val < State.reset.cfg.reqW ∧
    (0x1008 : Word).toNat = 0x1000 + 0x800 * (0 : Task).val + 0x008 ∧
    (0x109F4 : Word).toNat = 0x1000 + 0x800 * (31 : Task).val + (0x100 + 4 * (61 : Fin 62).val) ∧
    (0x10AF4 : Word).toNat = 0x1000 + 0x800 * (31 : Task).val + (0x200 + 4 * (61 : Fin 62).val) ∧
    (0x10DFC : Word).toNat = 0x1000 + 0x800 * (31 : Task).val + (0x400 + 4 * (127 : Fin 128).val) :=
  ⟨by decide, rfl, rfl, rfl, rfl⟩

theorem test_witness_ScriptLinesWriteTheirField :
    (31 : Task).val < State.reset.cfg.reqW ∧ (0xFFF : BitVec 32).toNat < State.reset.cfg.ringN := by decide

theorem test_witness_PushFillsSlot :
    (scripted [.push (List.replicate 18 0x1111)] State.reset).port.bus = none ∧
    (scripted [.push (List.replicate 18 0x1111)] State.reset).env.inputs = .push (List.replicate 18 0x1111) :: [] ∧
    (List.replicate 18 (0x1111 : Half)).length = State.reset.cfg.setWords ∧ State.reset.cfg.Ok := by decide

theorem test_witness_RedundantRoundTrip :
    let s := scripted (scriptTicks 4 ++ scriptRelease 3 ++ [scriptSet 4, scriptTick]) (asked 3 (withPayload [5, 0]))
    s.cfg.Ok ∧ (s.taskCfg 4).cls = .rrRead ∧ (s.taskCfg 4).devs = (s.taskCfg 3).devs ∧
      (s.taskCfg 4).addr = (s.taskCfg 3).addr ∧ (s.taskCfg 4).len = 2 ∧ (s.taskCfg 3).len = 2 ∧
      (s.taskCfg 3).cls = .rrWrite ∧
      (∀ d ∈ [FramSel.fram1, .fram2], (s.taskCfg 3).devs = [d.dev] → 4 * (2 + 2) ≤ s.cfg.framBytes d.dev ∧
        ∀ i < 4 * (2 + 2), ∀ j < 4 * (2 + 2),
          ((s.taskCfg 3).addr.toNat + i) % s.cfg.framBytes d.dev ≠
            ((s.taskCfg 3).addr.toNat + s.cfg.rrOffFram + j) % s.cfg.framBytes d.dev) ∧
      (∀ k, (s.ctxAt k).phase = .idle) ∧ s.lockV = false ∧ s.req = requestWord 3 ∧ s.ack = 0 ∧ s.port.bus = none ∧
      s.env.inputs = scriptTicks 4 ++ scriptRelease 3 ++ [scriptSet 4, scriptTick] := by decide

/-- The calibration pairs 12/15, 13/16 and 14/17. -/
theorem test_witness_RedundantRoundTrip_calibration :
    ∀ p ∈ [((12 : Task), (15 : Task)), (13, 16), (14, 17)],
      let s := scripted ((List.replicate 4 ([scriptTick] ++ scriptFast ++ [scriptTick])).flatten ++ scriptTicks 2 ++
        scriptRelease p.1 ++ [scriptSet p.2, scriptTick]) (asked p.1 (withPayload [5, 0]))
      s.cfg.Ok ∧ (s.taskCfg p.2).cls = .rrRead ∧ (s.taskCfg p.2).devs = (s.taskCfg p.1).devs ∧
        (s.taskCfg p.2).addr = (s.taskCfg p.1).addr ∧ (s.taskCfg p.2).len = (s.taskCfg p.1).len ∧
        (s.taskCfg p.1).cls = .calWrite ∧ s.prot = false ∧ s.flash.bp = false ∧ s.flash.busy = false ∧
        (∀ k, (s.ctxAt k).phase = .idle) ∧ s.lockV = false ∧ s.req = requestWord p.1 ∧ s.ack = 0 ∧ s.port.bus = none := by
  decide +kernel

end Sys2Proof.Tests
end

namespace Sys2Proof.Machine

/-! ### What a slice may do besides its frame -/

/-- Task `k` computes without the transport: the devices and the port stand, the ring takes pushes alone, and no other
task's context or ACK bit changes. -/
structure OnlyTask (k : Task) (s t : State) : Prop where
  cfg    : t.cfg = s.cfg
  flash  : t.flash = s.flash
  fram1  : t.fram1 = s.fram1
  fram2  : t.fram2 = s.fram2
  port   : t.port = s.port
  ring   : ∃ vs : List Sample, t.ring = vs.foldl (fun r v => r.push s.cfg.ringN s.cfg.setWords v) s.ring
  others : ∀ j, j ≠ k → t.ctxAt j = s.ctxAt j
  acks   : ∀ j, j ≠ k → bitAt t.ack j = bitAt s.ack j

namespace OnlyTask

theorem refl (k : Task) (s : State) : OnlyTask k s s :=
  ⟨rfl, rfl, rfl, rfl, rfl, ⟨[], rfl⟩, fun _ _ => rfl, fun _ _ => rfl⟩

theorem trans {k : Task} {s t u : State} (h : OnlyTask k s t) (h' : OnlyTask k t u) : OnlyTask k s u where
  cfg    := h'.cfg.trans h.cfg
  flash  := h'.flash.trans h.flash
  fram1  := h'.fram1.trans h.fram1
  fram2  := h'.fram2.trans h.fram2
  port   := h'.port.trans h.port
  ring   := by
    obtain ⟨vs, hv⟩ := h.ring
    obtain ⟨ws, hw⟩ := h'.ring
    exact ⟨vs ++ ws, by rw [hw, hv, h.cfg, List.foldl_append]⟩
  others := fun j hj => (h'.others j hj).trans (h.others j hj)
  acks   := fun j hj => (h'.acks j hj).trans (h.acks j hj)

end OnlyTask

theorem TaskOnly.onlyTask {k : Task} {s t : State} (h : TaskOnly s t) (hc : ∀ j, j ≠ k → t.ctxAt j = s.ctxAt j)
    (ha : ∀ j, j ≠ k → bitAt t.ack j = bitAt s.ack j) : OnlyTask k s t :=
  ⟨h.cfg, h.flash, h.fram1, h.fram2, h.port, ⟨[], h.ring⟩, hc, ha⟩

theorem onlyTask_finish (k : Task) (st : Status) (s : State) : OnlyTask k s (finish k st s) :=
  (taskOnly_finish k st s).onlyTask (fun j hj => by rw [ctxAt_finish, if_neg hj]) fun j hj => by
    rw [finish_eq]
    split
    · simp [hj]
    · rfl

theorem onlyTask_retire (k : Task) (s : State) : OnlyTask k s (retire k s) :=
  (taskOnly_retire k s).onlyTask (fun j hj => by rw [ctxAt_retire, if_neg hj]) fun _ _ => rfl

theorem onlyTask_withdraw (k : Task) (s : State) : OnlyTask k s (withdraw k s) :=
  (taskOnly_withdraw k s).onlyTask (fun j hj => by rw [ctxAt_withdraw, if_neg hj]) fun _ _ => rfl

theorem onlyTask_modCtx (k : Task) (f : Ctx → Ctx) (s : State) : OnlyTask k s (s.modCtx k f) :=
  ⟨rfl, rfl, rfl, rfl, rfl, ⟨[], rfl⟩, fun j hj => by rw [ctxAt_modCtx, if_neg hj], fun _ _ => rfl⟩

theorem onlyTask_takeLock (k : Task) (s : State) : OnlyTask k s (s.takeLock k) :=
  ⟨rfl, rfl, rfl, rfl, rfl, ⟨[], rfl⟩, fun _ _ => rfl, fun _ _ => rfl⟩

theorem onlyTask_dropLock (k : Task) (s : State) : OnlyTask k s s.dropLock :=
  ⟨rfl, rfl, rfl, rfl, rfl, ⟨[], rfl⟩, fun _ _ => rfl, fun _ _ => rfl⟩

theorem onlyTask_setBit (k : Task) (s : State) : OnlyTask k s (s.setAck (setBit s.ack k)) :=
  ⟨rfl, rfl, rfl, rfl, rfl, ⟨[], rfl⟩, fun _ _ => rfl, fun j hj => by simp [hj]⟩

theorem onlyTask_finishAck (k : Task) (s : State) : OnlyTask k s (finishAck k s) :=
  (onlyTask_modCtx k (fun c => { c with phase := .idle }) s).trans (onlyTask_setBit k _)

/-- A computation of task `k` that leaves its position alone: LOCK, ACK, PHASE and FS stand. -/
structure Internal (k : Task) (s t : State) : Prop extends OnlyTask k s t where
  ack   : t.ack = s.ack
  lockV : t.lockV = s.lockV
  lockK : t.lockK = s.lockK
  phase : (t.ctxAt k).phase = (s.ctxAt k).phase
  fs    : (t.ctxAt k).fs = (s.ctxAt k).fs

theorem Internal.refl (k : Task) (s : State) : Internal k s s := ⟨.refl k s, rfl, rfl, rfl, rfl, rfl⟩

theorem Internal.trans {k : Task} {s t u : State} (h : Internal k s t) (h' : Internal k t u) : Internal k s u :=
  ⟨h.toOnlyTask.trans h'.toOnlyTask, h'.ack.trans h.ack, h'.lockV.trans h.lockV, h'.lockK.trans h.lockK,
    h'.phase.trans h.phase, h'.fs.trans h.fs⟩

/-- An update of the task's own context that keeps PHASE and FS. -/
theorem internal_modCtx (k : Task) (f : Ctx → Ctx) (s : State) (hp : (f (s.ctxAt k)).phase = (s.ctxAt k).phase)
    (hf : (f (s.ctxAt k)).fs = (s.ctxAt k).fs) : Internal k s (s.modCtx k f) :=
  ⟨onlyTask_modCtx k f s, rfl, rfl, rfl, by rw [ctxAt_modCtx_self, hp], by rw [ctxAt_modCtx_self, hf]⟩

theorem internal_setSflt (k : Task) (v : Word) (s : State) : Internal k s (s.setSflt v) :=
  ⟨⟨rfl, rfl, rfl, rfl, rfl, ⟨[], rfl⟩, fun _ _ => rfl, fun _ _ => rfl⟩, rfl, rfl, rfl, rfl, rfl⟩

theorem internal_setProt (k : Task) (b : Bool) (s : State) : Internal k s (s.setProt b) :=
  ⟨⟨rfl, rfl, rfl, rfl, rfl, ⟨[], rfl⟩, fun _ _ => rfl, fun _ _ => rfl⟩, rfl, rfl, rfl, rfl, rfl⟩

/-- The page data of a capture lets pushes fall and changes nothing else of the engine (rules R192, R199). -/
theorem internal_pageData (k : Task) (n : Nat) (s : State) : Internal k s (pageData k n s).1 := by
  rw [pageData, samplesFrom_eq]
  exact ⟨⟨rfl, rfl, rfl, rfl, rfl, ⟨_, rfl⟩, fun _ _ => rfl, fun _ _ => rfl⟩, rfl, rfl, rfl, rfl, rfl⟩

theorem pageData_ctx (k : Task) (n : Nat) (s : State) : (pageData k n s).1.ctx = s.ctx := by
  rw [pageData, samplesFrom_eq]

/-! ### What an op boundary may do -/

/-- A task's work at an op boundary that begins no device operation: at most one frame, a read. -/
def ReadsOnce (k : Task) (s t : State) : Prop := Internal k s t ∨ ∃ i, Internal k (transact i s) t

/-- The task reports its end (rules R214-R216). -/
def Ends (k : Task) (s t : State) : Prop := (∃ st, t = finish k st s) ∨ t = retire k s ∨ t = withdraw k s

/-- What a class can do at an op boundary (rule R219): work on, work and end, or begin a device operation, that of its
sequence. -/
inductive BoundaryStep (k : Task) (s : State) : State → Prop
  | works {t : State} (h : ReadsOnce k s t) : BoundaryStep k s t
  | ends {u t : State} (h : ReadsOnce k s u) (h' : Ends k u t) : BoundaryStep k s t
  | starts {u : State} (op : DeviceOp) (h : Internal k s u)
      (hop : op ≠ .none → (startOp k op u).SequenceOp k) : BoundaryStep k s (startOp k op u)

/-- What the slice of task `k` asks of the rule of its class `cls`. -/
structure ClassRule.Orderly (k : Task) (cls : OpClass) (r : ClassRule) : Prop where
  start    : ∀ s, Internal k s (r.start s)
  boundary : ∀ s, (s.taskCfg k).cls = cls → BoundaryStep k s (r.boundary s)
  data     : ∀ n s, Internal k s (r.data n s).1
  dataCtx  : ∀ n s, (r.data n s).1.ctx = s.ctx
  commit   : ∀ s, Internal k s (r.commit s).1

/-- The begin of a device operation as the context sees it (rules R150, R158). -/
theorem startOp_ctxAt (k : Task) (op : DeviceOp) (s : State) (h : op ≠ .none) :
    ((startOp k op s).ctxAt k).fs = .enabled ∧ ((startOp k op s).ctxAt k).op = op ∧
    ((startOp k op s).ctxAt k).opi = (s.ctxAt k).opi ∧ ((startOp k op s).ctxAt k).phase = (s.ctxAt k).phase := by
  cases op
  case none => exact absurd rfl h
  case fram d a n => simp [startOp, startWop]
  all_goals simp [startOp, startFop]

@[simp] theorem startOp_cfg (k : Task) (op : DeviceOp) (s : State) : (startOp k op s).cfg = s.cfg := by
  cases op <;> simp [startOp, startFop, startWop]

theorem startOp_taskCfg (k j : Task) (op : DeviceOp) (s : State) : (startOp k op s).taskCfg j = s.taskCfg j := by
  simp [State.taskCfg]

/-- The classes whose device operation the context gives, so that any operation fits their sequence. -/
def contextGivesOp (cls : OpClass) : Bool :=
  match cls with
  | .rrWrite | .calWrite | .calUnlock => false
  | _ => true

theorem sequenceOp_of_free (s : State) (k : Task) (h : contextGivesOp (s.taskCfg k).cls = true) : s.SequenceOp k := by
  unfold State.SequenceOp
  cases hc : (s.taskCfg k).cls <;> simp_all [contextGivesOp]

/-- Where the class leaves the operation to the context, any operation may begin. -/
theorem boundary_startsFree {k : Task} {s u : State} (op : DeviceOp) (h : Internal k s u)
    (hc : contextGivesOp (s.taskCfg k).cls = true) : BoundaryStep k s (startOp k op u) :=
  .starts op h fun _ => sequenceOp_of_free _ k (by rw [startOp_taskCfg, State.taskCfg, h.cfg]; exact hc)

/-! ### The classes -/

theorem orderly_singleOp (k : Task) (cls : OpClass) (valid : State → Bool) (op : State → DeviceOp)
    (h : contextGivesOp cls = true) : (singleOp k valid op).Orderly k cls where
  start    := .refl k
  boundary := fun s hs => boundary_startsFree (op s) (.refl k s) (by rw [hs, h])
  data     := fun _ s => .refl k s
  dataCtx  := fun _ _ => rfl
  commit   := fun s => .refl k s

theorem captureBoundary_step (k : Task) (s : State) (h : (s.taskCfg k).cls = .capture) :
    BoundaryStep k s (captureBoundary k s) := by
  have hc : contextGivesOp (s.taskCfg k).cls = true := by rw [h]; rfl
  simp only [captureBoundary]
  split
  · exact .ends (.inl (.refl k s)) (.inr (.inl rfl))
  · split
    · exact boundary_startsFree (.se _) (internal_modCtx k (fun c => { c with opi := 0 }) s rfl rfl) hc
    · exact boundary_startsFree (.prog _ _)
        (internal_modCtx k (fun c => { c with opi := 1, pend := BitVec.ofNat 3 (setsInPage c.count) }) s rfl rfl) hc

theorem captureCommit_internal (k : Task) (s : State) : Internal k s (captureCommit k s).1 :=
  internal_modCtx k (fun c => if c.opi = 0 then { c with needErase := false } else commitPage c) s
    (by split <;> rfl) (by split <;> rfl)

theorem orderly_capture (k : Task) : (captureRule k).Orderly k .capture where
  start    := fun s => internal_modCtx k (fun c =>
    { c with count := 0, pend := 0, needErase := true, nzero := zeroCount s.cfg.ringN s.ring c.rstart }) s rfl rfl
  boundary := captureBoundary_step k
  data     := internal_pageData k
  dataCtx  := pageData_ctx k
  commit   := captureCommit_internal k

/-- The write operation of an RR_WRITE is that of the copy at its OPI (rules R170, R173). -/
theorem recordWriteOp_sequence (k : Task) (s : State) (h : (s.taskCfg k).cls = .rrWrite)
    (hop : recordWriteOp k s ≠ .none) : (startOp k (recordWriteOp k s) s).SequenceOp k := by
  obtain ⟨-, hop', hopi, -⟩ := startOp_ctxAt k _ s hop
  simp only [State.SequenceOp, startOp_taskCfg, startOp_cfg, h, hop', hopi]
  intro d hd
  rw [recordWriteOp, recordFram_eq_some _ d hd]
  simp only [framCopyAddr, framAddr, recordWordCount_eq, DeviceOp.fram.injEq, true_and, and_true]
  by_cases h0 : (s.ctxAt k).opi = 0#4 <;> simp [h0]

theorem orderly_recordWrite (k : Task) : (recordWriteRule k).Orderly k .rrWrite where
  start    := .refl k
  boundary := fun s hs => .starts _ (.refl k s) (recordWriteOp_sequence k s hs)
  data     := fun _ s => .refl k s
  dataCtx  := fun _ _ => rfl
  commit   := fun s => by
    show Internal k s (Prod.fst (ite _ _ _))
    split
    · exact internal_modCtx k (fun c => { c with opi := 1 }) s rfl rfl
    · exact .refl k s

theorem defaultRead_ends (k : Task) (len : Nat) (s : State) : ∃ u, Internal k s u ∧ Ends k u (defaultRead k len s) :=
  ⟨_, (internal_modCtx k _ s (by simp) (by simp)).trans (internal_setSflt k _ _), .inl ⟨_, rfl⟩⟩

theorem recordReadStep_step (k : Task) (s : State) : BoundaryStep k s (recordReadStep k s) := by
  simp only [recordReadStep]
  split
  · exact .works (.inl (.refl k s))
  · rename_i d _
    split
    · exact .ends (.inr ⟨_, internal_modCtx k _ _ (by simp) (by simp)⟩) (.inl ⟨_, rfl⟩)
    · split
      · obtain ⟨u, hu, he⟩ := defaultRead_ends k (s.taskCfg k).len
          (transact (copyFrame s.cfg (s.taskCfg k) d ((s.ctxAt k).opi != 0)) s)
        exact .ends (.inr ⟨_, hu⟩) he
      · exact .works (.inr ⟨_, internal_modCtx k (fun c => { c with opi := 1 }) _ rfl rfl⟩)

theorem orderly_recordRead (k : Task) : (recordReadRule k).Orderly k .rrRead where
  start    := fun s => internal_modCtx k (fun c => { c with src := .noRead }) s rfl rfl
  boundary := fun s _ => recordReadStep_step k s
  data     := fun _ s => .refl k s
  dataCtx  := fun _ _ => rfl
  commit   := fun s => .refl k s

/-- The Flash operation of a CAL_WRITE is that of its OPI (rule R179). -/
theorem calWriteOp_sequence (k : Task) (s : State) (h : (s.taskCfg k).cls = .calWrite) (hop : calWriteOp k s ≠ .none) :
    (startOp k (calWriteOp k s) s).SequenceOp k := by
  obtain ⟨-, hop', hopi, -⟩ := startOp_ctxAt k _ s hop
  simp only [State.SequenceOp, startOp_taskCfg, startOp_cfg, h, hop', hopi]
  rfl

theorem calWriteBoundary_step (k : Task) (s : State) (h : (s.taskCfg k).cls = .calWrite) :
    BoundaryStep k s (calWriteBoundary k s) := by
  rw [calWriteBoundary]
  split
  · exact .ends (.inl (.refl k s)) (.inl ⟨_, rfl⟩)
  · exact .starts _ (.refl k s) (calWriteOp_sequence k s h)

theorem orderly_calWrite (k : Task) : (calWriteRule k).Orderly k .calWrite where
  start    := .refl k
  boundary := calWriteBoundary_step k
  data     := fun _ s => .refl k s
  dataCtx  := fun _ _ => rfl
  commit   := fun s => by
    show Internal k s (Prod.fst (ite _ _ _))
    split
    · exact internal_modCtx k (fun c => { c with opi := c.opi + 1 }) s rfl rfl
    · exact internal_setProt k true s

theorem orderly_calUnlock (k : Task) : (calUnlockRule k).Orderly k .calUnlock where
  start    := .refl k
  boundary := fun s hs => .starts .unlock (.refl k s) fun hop => by
    obtain ⟨-, hop', -, -⟩ := startOp_ctxAt k _ s hop
    simp only [State.SequenceOp, startOp_taskCfg, hs, hop']
  data     := fun _ s => .refl k s
  dataCtx  := fun _ _ => rfl
  commit   := fun s => internal_setProt k false s

theorem readStep_step (k : Task) (s : State) : BoundaryStep k s (readStep k s) := by
  simp only [readStep]
  split
  · exact .works (.inl (.refl k s))
  · exact .ends (.inr ⟨_, internal_modCtx k _ _ (by simp) (by simp)⟩) (.inl ⟨_, rfl⟩)

theorem orderly_read (k : Task) : (readRule k).Orderly k .read where
  start    := .refl k
  boundary := fun s _ => readStep_step k s
  data     := fun _ s => .refl k s
  dataCtx  := fun _ _ => rfl
  commit   := fun s => .refl k s

theorem orderly_none (k : Task) : noneRule.Orderly k .unassigned where
  start    := .refl k
  boundary := fun s _ => .works (.inl (.refl k s))
  data     := fun _ s => .refl k s
  dataCtx  := fun _ _ => rfl
  commit   := fun s => .refl k s

/-- Every class keeps to the shape of a slice (rule R219). -/
theorem orderly_classRule (k : Task) (cls : OpClass) : (classRule k cls).Orderly k cls := by
  cases cls
  case capture => exact orderly_capture k
  case rrWrite => exact orderly_recordWrite k
  case rrRead => exact orderly_recordRead k
  case calWrite => exact orderly_calWrite k
  case calUnlock => exact orderly_calUnlock k
  case read => exact orderly_read k
  case unassigned => exact orderly_none k
  all_goals exact orderly_singleOp k _ _ _ rfl

end Sys2Proof.Machine

namespace Sys2Proof.Machine

/-! ### What a slice may do -/

/-- Task `k` works with at most one frame on the transport. -/
def SliceSends (k : Task) (s t : State) : Prop :=
  OnlyTask k s t ∨ ∃ i u, OnlyTask k s u ∧ OnlyTask k (transact i u) t

theorem SliceSends.then {k : Task} {s t u : State} (h : SliceSends k s t) (h' : OnlyTask k t u) : SliceSends k s u := by
  rcases h with h | ⟨i, v, hv, ht⟩
  · exact .inl (h.trans h')
  · exact .inr ⟨i, v, hv, ht.trans h'⟩

theorem SliceSends.after {k : Task} {s t u : State} (h : OnlyTask k s t) (h' : SliceSends k t u) : SliceSends k s u := by
  rcases h' with h' | ⟨i, v, hv, ht⟩
  · exact .inl (h.trans h')
  · exact .inr ⟨i, v, h.trans hv, ht⟩

theorem sliceSends_transact (k : Task) (i : Instr) (s : State) : SliceSends k s (transact i s) :=
  .inr ⟨i, s, .refl k s, .refl k _⟩

theorem SliceSends.cfg {k : Task} {s t : State} (h : SliceSends k s t) : t.cfg = s.cfg := by
  rcases h with h | ⟨i, u, hu, ht⟩
  · exact h.cfg
  · rw [ht.cfg, transact_cfg, hu.cfg]

theorem SliceSends.others {k : Task} {s t : State} (h : SliceSends k s t) (j : Task) (hj : j ≠ k) :
    t.ctxAt j = s.ctxAt j := by
  rcases h with h | ⟨i, u, hu, ht⟩
  · exact h.others j hj
  · rw [ht.others j hj, transact_ctxAt, hu.others j hj]

theorem SliceSends.acks {k : Task} {s t : State} (h : SliceSends k s t) (j : Task) (hj : j ≠ k) :
    bitAt t.ack j = bitAt s.ack j := by
  rcases h with h | ⟨i, u, hu, ht⟩
  · exact h.acks j hj
  · rw [ht.acks j hj, transact_ack, hu.acks j hj]

theorem Ends.onlyTask {k : Task} {s t : State} (h : Ends k s t) : OnlyTask k s t := by
  rcases h with ⟨st, rfl⟩ | rfl | rfl
  · exact onlyTask_finish k st s
  · exact onlyTask_retire k s
  · exact onlyTask_withdraw k s

theorem ReadsOnce.sends {k : Task} {s t : State} (h : ReadsOnce k s t) : SliceSends k s t := by
  rcases h with h | ⟨i, h⟩
  · exact .inl h.toOnlyTask
  · exact .inr ⟨i, s, .refl k s, h.toOnlyTask⟩

theorem sliceSends_startOp (k : Task) (op : DeviceOp) (s : State) : SliceSends k s (startOp k op s) := by
  have start (i : Instr) (f : Ctx → Ctx) : SliceSends k s (((transact i s).takeLock k).modCtx k f) :=
    (sliceSends_transact k i s).then ((onlyTask_takeLock k _).trans (onlyTask_modCtx k f _))
  cases op
  case fram d a n => exact start (.frWren d) fun c => { c with fs := .enabled, op := .fram d a n }
  case none => exact .inl (.refl k s)
  all_goals exact start .flWren fun c => { c with polls := 0, fs := .enabled, op := _ }

theorem BoundaryStep.sends {k : Task} {s t : State} (h : BoundaryStep k s t) : SliceSends k s t := by
  cases h with
  | works h => exact h.sends
  | ends h h' => exact h.sends.then h'.onlyTask
  | starts op h hop => exact .after h.toOnlyTask (sliceSends_startOp k op _)

/-- A completed device operation: the class records it, and then the task ends or stays at its op boundary (rule R217). -/
theorem opComplete_ends (k : Task) (r : ClassRule) (s : State) :
    opComplete k r s = (r.commit s).1 ∨ Ends k (r.commit s).1 (opComplete k r s) := by
  simp only [opComplete]
  split
  · exact .inr (.inr (.inl rfl))
  · split
    · exact .inr (.inl ⟨_, rfl⟩)
    · split
      · exact .inl rfl
      · exact .inr (.inr (.inr rfl))

theorem commandStep_none (k : Task) (r : ClassRule) (s : State) (h : (s.ctxAt k).op = .none) :
    commandStep k r s = endOp k r s := by
  simp only [commandStep, h]

section slice
variable {k : Task} {cls : OpClass} {r : ClassRule}

theorem onlyTask_opComplete (hr : r.Orderly k cls) (s : State) : OnlyTask k s (opComplete k r s) := by
  have hc := (hr.commit s).toOnlyTask
  rcases opComplete_ends k r s with h | h
  · rwa [h]
  · exact hc.trans h.onlyTask

theorem onlyTask_setFs (k : Task) (v : SubStep) (s : State) : OnlyTask k s (s.setFs k v) := onlyTask_modCtx k _ s

theorem onlyTask_endOp (hr : r.Orderly k cls) (s : State) : OnlyTask k s (endOp k r s) :=
  ((onlyTask_dropLock k s).trans (onlyTask_setFs k .boundary _)).trans (onlyTask_opComplete hr _)

theorem onlyTask_pollLimit (k : Task) (s : State) : OnlyTask k s (pollLimit k s) := by
  rw [pollLimit]
  split
  · exact ((onlyTask_dropLock k s).trans (onlyTask_modCtx k _ _)).trans (onlyTask_finish k .timeout _)
  · exact .refl k s

theorem pollStep_sends (hr : r.Orderly k cls) (s : State) : SliceSends k s (pollStep k r s) := by
  have poll := sliceSends_transact k .flRdsr s
  simp only [pollStep]
  split
  · exact poll.then ((onlyTask_modCtx k (fun c => { c with polls := nextPolls c.polls }) _).trans
      (onlyTask_pollLimit k _))
  · exact poll.then ((onlyTask_modCtx k (fun c => { c with polls := 0 }) _).trans (onlyTask_endOp hr _))

theorem commandStep_sends (hr : r.Orderly k cls) (s : State) : SliceSends k s (commandStep k r s) := by
  cases h : (s.ctxAt k).op with
  | prog p n =>
    rw [commandStep_prog k r s p n h]
    exact (SliceSends.after (hr.data n s).toOnlyTask (sliceSends_transact k _ _)).then (onlyTask_setFs k _ _)
  | se p =>
    rw [commandStep_se k r s p h]
    exact (sliceSends_transact k _ s).then (onlyTask_setFs k _ _)
  | be p =>
    rw [commandStep_be k r s p h]
    exact (sliceSends_transact k _ s).then (onlyTask_setFs k _ _)
  | protect =>
    rw [commandStep_protect k r s h]
    exact (sliceSends_transact k _ s).then (onlyTask_endOp hr _)
  | unlock =>
    rw [commandStep_unlock k r s h]
    exact (sliceSends_transact k _ s).then (onlyTask_endOp hr _)
  | fram d a n =>
    rw [commandStep_fram k r s d a n h]
    exact (SliceSends.after (hr.data n s).toOnlyTask (sliceSends_transact k _ _)).then (onlyTask_endOp hr _)
  | none =>
    rw [commandStep_none k r s h]
    exact .inl (onlyTask_endOp hr s)

theorem runTask_sends (hr : r.Orderly k cls) (s : State) (hs : (s.taskCfg k).cls = cls) :
    SliceSends k s (runTask k r s) := by
  rw [runTask, continueOp]
  split
  · exact (hr.boundary s hs).sends
  · split
    · exact commandStep_sends hr s
    · exact pollStep_sends hr s

/-- A slice of task `k` sends at most one frame and touches no other task (rules R217-R219, R222). -/
theorem slice_sends (hr : r.Orderly k cls) (s : State) (hs : (s.taskCfg k).cls = cls) :
    SliceSends k s (slice k r s) := by
  cases hp : (s.ctxAt k).phase with
  | finish => rw [slice_finish k r s hp]; exact .inl (onlyTask_finishAck k s)
  | run => rw [slice_run k r s hp]; exact runTask_sends hr s hs
  | idle =>
    have hb : OnlyTask k s (r.start (beginTask k s)) :=
      (onlyTask_modCtx k _ s).trans (hr.start (beginTask k s)).toOnlyTask
    rw [slice_idle k r s hp]
    split
    · exact .after hb (runTask_sends hr _ (by rw [State.taskCfg, hb.cfg]; exact hs))
    · exact .inl (hb.trans (onlyTask_finish k _ _))

end slice

theorem serve_sends (k : Task) (s : State) : SliceSends k s (slice k (taskRule k s) s) :=
  slice_sends (orderly_classRule k _) s rfl

end Sys2Proof.Machine

namespace Sys2Proof.Machine

/-! ### What a tick and a step can be -/

/-- What steps 1-5 of a tick leave: those of the arbiter alone, or with one slice of the task they select (rule R210). -/
inductive Ticked (s : State) : State → Prop
  | idle : Ticked s (arbitrate s)
  | serves (k : Task) (hk : (arbitrate s).sel = some k) :
      Ticked s (slice k (taskRule k (arbitrate s)) (arbitrate s))

theorem tick_cases (s : State) : ∃ u, Ticked s u ∧ tick s = .next (endTick u) := by
  rw [tick_eq]
  cases h : (arbitrate s).sel with
  | none => exact ⟨_, .idle, rfl⟩
  | some k => exact ⟨_, .serves k h, rfl⟩

theorem tick_next {s t : State} (h : tick s = .next t) : ∃ u, Ticked s u ∧ t = endTick u := by
  obtain ⟨u, hu, ht⟩ := tick_cases s
  rw [ht] at h
  cases h
  exact ⟨u, hu, rfl⟩

/-- A tick, but for its end, is the arbiter's steps and at most one frame. -/
theorem Ticked.sends {s u : State} (h : Ticked s u) : ∃ k, SliceSends k (arbitrate s) u := by
  cases h with
  | idle => exact ⟨0, .inl (.refl 0 _)⟩
  | serves k hk => exact ⟨k, serve_sends k _⟩

/-! ### What a device decodes is no request (rules R99, R100) -/

theorem shaped_task {ok : Bool} {i j : Instr} (h : shaped ok i = .ok j) (hi : i.task = none) : j.task = none := by
  unfold shaped at h
  split at h <;> cases h
  exact hi

theorem decodePp_task {n nIn : Nat} {rest : List Byte} {j : Instr} (h : decodePp n rest nIn = .ok j) :
    j.task = none := by
  unfold decodePp at h
  split at h
  · exact shaped_task h rfl
  · cases h

theorem decodeErase_task {make : Packed → Instr} {n nIn : Nat} {rest : List Byte} {j : Instr}
    (h : decodeErase make n rest nIn = .ok j) (hm : ∀ p, (make p).task = none) : j.task = none := by
  unfold decodeErase at h
  split at h
  · exact shaped_task h (hm _)
  · cases h

theorem decodeFlashRead_task {n nIn : Nat} {rest : List Byte} {j : Instr} (h : decodeFlashRead n rest nIn = .ok j) :
    j.task = none := by
  unfold decodeFlashRead at h
  split at h
  · exact shaped_task h rfl
  · cases h

theorem decodeFlash_task {c : Commands} {op : Byte} {rest : List Byte} {nIn : Nat} {j : Instr}
    (h : decodeFlash c op rest nIn = .ok j) : j.task = none := by
  unfold decodeFlash at h
  split_ifs at h
  · exact shaped_task h rfl
  · exact shaped_task h rfl
  · exact decodePp_task h
  · exact decodeErase_task h fun _ => rfl
  · exact decodeErase_task h fun _ => rfl
  · exact shaped_task h rfl
  · exact shaped_task h rfl
  · exact decodeFlashRead_task h

theorem decodeFram_task {c : Commands} {d : FramSel} {op : Byte} {rest : List Byte} {nIn : Nat} {j : Instr}
    (h : decodeFram c d op rest nIn = .ok j) : j.task = none := by
  unfold decodeFram at h
  split_ifs at h
  · exact shaped_task h rfl
  all_goals
    split at h
    · exact shaped_task h rfl
    · cases h

/-- A frame decodes to a row of its device's table, never to a request bit. -/
theorem decodeFrame_task {c : Commands} {f : Frame} {i : Instr} (h : decodeFrame c f = .ok i) : i.task = none := by
  unfold decodeFrame at h
  split at h
  · cases h
  · split at h
    · exact decodeFlash_task h
    · exact decodeFram_task h
    · exact decodeFram_task h

/-- A frame's meaning is its device's effect (rule R120). -/
theorem exec_frame (i : Instr) (s : State) (h : i.task = none) : exec i s = .next (deviceEffect i s) := by
  cases i <;> simp [Instr.task] at h <;> rfl

/-- What a step of the machine can be, in each case from the state without the input it takes (log entry 6). -/
inductive StepTo (s : State) : State → Prop
  | device (p : Port) (i : Instr) (hi : i.task = none) : StepTo s (deviceEffect i (s.setPort p))
  | unknown (p : Port) (n : Nat) : StepTo s (malformedFrame n (s.setPort p))
  | ticks {t : State} (e : Env) (h : tick (s.setEnv e) = .next t) : StepTo s t
  | writes (e : Env) (v : Word) (r : Reg) : StepTo s (writeReg (s.setEnv e) v r)
  | reads (e : Env) : StepTo s (s.setEnv e)
  | pushes (e : Env) (v : Sample) : StepTo s (pushSample (s.setEnv e) v)
  | completes (e : Env) : StepTo s (flashDone (s.setEnv e))
  | powerFails (e : Env) (fs : List Frame) : StepTo s (powerBack (loseInFrames fs (loseFlash (s.setEnv e))))

theorem hostWrite_next {width : Width} {off v : Word} {s t : State} (h : hostWrite width off v s = .next t) :
    t = writeReg s v (regAt s.cfg off) := by
  unfold hostWrite at h
  split at h <;> cases h
  rfl

theorem hostRead_next {width : Width} {off : Word} {s t : State} (h : hostRead width off s = .next t) :
    t = s.setEnv { s.env with hostData := readReg s (regAt s.cfg off) } := by
  unfold hostRead at h
  split at h <;> cases h
  rfl

theorem deviceStep_to {f : Frame} {s t : State} (h : deviceStep f s = .next t) : StepTo s t := by
  simp only [deviceStep, decode] at h
  split at h
  · rename_i i hi
    have ht := decodeFrame_task hi
    rw [exec_frame i _ ht] at h
    cases h
    exact .device _ i ht
  · cases h
    exact .unknown _ _

theorem act_to {a : Action} {s t : State} (e : Env) (h : act a (s.setEnv e) = .next t) : StepTo s t := by
  cases a with
  | hostWrite width off v => obtain rfl := hostWrite_next h; exact .writes e v _
  | hostRead width off => obtain rfl := hostRead_next h; exact .reads _
  | push v => cases h; exact .pushes e v
  | tick between => exact .ticks _ h
  | done => cases h; exact .completes e
  | power => cases h; exact .powerFails e []
  | powerInFrame =>
    obtain ⟨u, -, hu⟩ := tick_cases (s.setEnv e)
    simp only [act, powerLossInFrame, hu] at h
    cases h
    exact .powerFails e _

/-- The inversion of a step: every proof about `step` goes through it. -/
theorem step_to {s t : State} (h : step s = .next t) : StepTo s t := by
  unfold step at h
  split at h
  · exact deviceStep_to h
  · split at h
    · exact .ticks s.env h
    · exact act_to _ h

/-! ### The Flash's completion and power loss -/

/-- The completion step takes the operation of a busy Flash, or nothing (rule R79). -/
theorem flashDone_cases (s : State) : flashDone s = s ∨ ∃ op, s.flash.op = some op ∧
    flashDone s = s.setFlash { s.flash with
      array := op.apply s.cfg s.flash.array, busy := false, wel := false, op := none } := by
  simp only [flashDone]
  split
  · rename_i op _ hop
    exact .inr ⟨op, hop, rfl⟩
  · exact .inl rfl

/-- An FRAM's bytes left unspecified by a power loss inside its write frame (rule R88). -/
def loseFram (d : FramSel) (a : FramAddr) (n : Nat) (s : State) : State :=
  (s.setFram d { s.fram d with
    array := (s.fram d).array.scramble (s.cfg.framBytes d.dev) a.toNat n s.env.free }).useFree n

theorem loseFlash_cases (s : State) : loseFlash s = s ∨ ∃ op, loseFlash s = loseTarget op s := by
  simp only [loseFlash]
  split
  · exact .inr ⟨_, rfl⟩
  · exact .inl rfl

theorem loseInFrame_cases (i : Instr) (s : State) : loseInFrame i s = s ∨
    (∃ op, loseInFrame i s = loseTarget op s) ∨ ∃ d a n, loseInFrame i s = loseFram d a n s := by
  simp only [loseInFrame]
  split
  · exact .inr (.inl ⟨_, rfl⟩)
  · split
    · exact .inr (.inr ⟨_, _, _, rfl⟩)
    · exact .inl rfl

/-- What a lost target and a lost FRAM range keep, a power loss keeps (rules R88, R258). -/
theorem powerLost_induction {P : State → Prop} (hf : ∀ op s, P s → P (loseTarget op s))
    (hr : ∀ d a n s, P s → P (loseFram d a n s)) (fs : List Frame) (s : State) (h : P s) :
    P (loseInFrames fs (loseFlash s)) := by
  have h0 : P (loseFlash s) := by
    rcases loseFlash_cases s with e | ⟨op, e⟩ <;> rw [e]
    · exact h
    · exact hf op s h
  have frame (i : Instr) (t : State) (ht : P t) : P (loseInFrame i t) := by
    rcases loseInFrame_cases i t with e | ⟨op, e⟩ | ⟨d, a, n, e⟩ <;> rw [e]
    · exact ht
    · exact hf op t ht
    · exact hr d a n t ht
  refine List.foldlRecOn fs _ h0 fun t ht f _ => ?_
  split
  · exact frame _ t ht
  · exact ht

/-! ### The build (rule R50) -/

theorem Ticked.cfg {s u : State} (h : Ticked s u) : u.cfg = s.cfg := by
  obtain ⟨k, hk⟩ := h.sends
  rw [hk.cfg, arbitrate_cfg]

theorem tick_cfg {s t : State} (h : tick s = .next t) : t.cfg = s.cfg := by
  obtain ⟨u, hu, rfl⟩ := tick_next h
  rw [endTick_eq]
  exact hu.cfg

@[simp] theorem deviceEffect_cfg (i : Instr) (s : State) : (deviceEffect i s).cfg = s.cfg :=
  (engineSame_deviceEffect i s).cfg

@[simp] theorem writeReg_cfg (s : State) (v : Word) (r : Reg) : (writeReg s v r).cfg = s.cfg := by
  cases r <;> rfl

@[simp] theorem flashDone_cfg (s : State) : (flashDone s).cfg = s.cfg := by
  rcases flashDone_cases s with h | ⟨op, -, h⟩ <;> rw [h]
  rfl

theorem powerLost_cfg (fs : List Frame) (s : State) : (loseInFrames fs (loseFlash s)).cfg = s.cfg :=
  powerLost_induction (P := fun t => t.cfg = s.cfg) (fun _ _ h => h) (fun d a n t h => by simpa [loseFram] using h)
    fs s rfl

theorem StepTo.cfg {s t : State} (h : StepTo s t) : t.cfg = s.cfg := by
  cases h with
  | device p i hi => rw [deviceEffect_cfg, setPort_cfg]
  | unknown p n => rfl
  | ticks e h => exact (tick_cfg h).trans rfl
  | writes e v r => rw [writeReg_cfg, setEnv_cfg]
  | reads e => rfl
  | pushes e v => rfl
  | completes e => rw [flashDone_cfg, setEnv_cfg]
  | powerFails e fs => exact powerLost_cfg fs (s.setEnv e)

/-- Settles O54: every kind of step keeps the parameters. -/
theorem configurationNeverChanges : Obligations.ConfigurationNeverChanges := by
  unfold Obligations.ConfigurationNeverChanges
  intro s t h
  exact (step_to h).cfg

/-! ### The frames of a tick (rules R134, R222) -/

theorem SliceSends.sent {k : Task} {s t : State} (h : SliceSends k s t) (hs : s.port.sent = []) :
    t.port.sent.length ≤ 1 := by
  rcases h with h | ⟨i, u, hu, ht⟩
  · simp [h.port, hs]
  · simp [ht.port, hu.port, hs]

theorem SliceSends.bus {k : Task} {s t : State} (h : SliceSends k s t) : t.port.bus = s.port.bus := by
  rcases h with h | ⟨i, u, hu, ht⟩
  · rw [h.port]
  · rw [ht.port, transact_bus, hu.port]

/-- Settles O8: a tick is one slice at most, and a slice sends one frame at most. -/
theorem tickSendsAtMostOneFrame : Obligations.TickSendsAtMostOneFrame := by
  unfold Obligations.TickSendsAtMostOneFrame
  intro s
  obtain ⟨u, hu, ht⟩ := tick_cases s
  obtain ⟨k, hk⟩ := hu.sends
  refine ⟨_, ht, ?_, ?_, ?_⟩ <;> rw [endTick_eq]
  · exact hk.sent (by rw [arbitrate_port])
  · exact hk.bus.trans (by rw [arbitrate_port])

end Sys2Proof.Machine

namespace Sys2Proof.Machine

/-! ### What a frame does to the arrays -/

theorem flashAfter_array (p : Params) (op : FlashOp) (f : Flash) : (flashAfter p op f).array = f.array := by
  simp only [flashAfter]
  split
  · rfl
  · split <;> rfl

theorem flashAfter_op (p : Params) (op : FlashOp) (f : Flash) :
    (flashAfter p op f).op = f.op ∨ (flashAfter p op f).op = some op := by
  simp only [flashAfter]
  split
  · exact .inl rfl
  · split
    · exact .inl rfl
    · exact .inr rfl

theorem flashProtected_array (b : Bool) (f : Flash) : (flashProtected b f).array = f.array := by
  simp only [flashProtected]
  split <;> rfl

theorem flashProtected_op (b : Bool) (f : Flash) : (flashProtected b f).op = f.op := by
  simp only [flashProtected]
  split <;> rfl

/-- No frame changes the Flash's array at its deselect, and the operation that stands there afterwards is the one before
it or that of the frame, which is well formed (rules R79, R123-R125). -/
theorem deviceEffect_flash (i : Instr) (s : State) : (deviceEffect i s).flash.array = s.flash.array ∧
    ((deviceEffect i s).flash.op = s.flash.op ∨
      i.WellFormed ∧ (deviceEffect i s).flash.op = flashTarget s.cfg i) := by
  cases i
  case flWren =>
    simp only [deviceEffect, flWren, noRx_flash]
    split <;> exact ⟨rfl, .inl rfl⟩
  case flPp p words =>
    simp only [deviceEffect, flPp]
    split
    · rename_i hw
      rw [noRx_flash, flashCommand_flash]
      exact ⟨flashAfter_array _ _ _, (flashAfter_op _ _ _).imp_right fun h => ⟨hw, h⟩⟩
    · exact ⟨rfl, .inl rfl⟩
  case flSe p =>
    rw [deviceEffect, flSe, noRx_flash, flashCommand_flash]
    exact ⟨flashAfter_array _ _ _, (flashAfter_op _ _ _).imp_right fun h => ⟨rfl, h⟩⟩
  case flBe p =>
    rw [deviceEffect, flBe, noRx_flash, flashCommand_flash]
    exact ⟨flashAfter_array _ _ _, (flashAfter_op _ _ _).imp_right fun h => ⟨rfl, h⟩⟩
  case flUlbpr =>
    rw [deviceEffect, flUlbpr, noRx_flash, flashProtection_flash]
    exact ⟨flashProtected_array _ _, .inl (flashProtected_op _ _)⟩
  case flProtect data =>
    rw [deviceEffect, flProtect, noRx_flash, flashProtection_flash]
    exact ⟨flashProtected_array _ _, .inl (flashProtected_op _ _)⟩
  case flRead a n =>
    simp only [deviceEffect, flRead]
    split
    · split <;> exact ⟨rfl, .inl rfl⟩
    · exact ⟨rfl, .inl rfl⟩
  case frWren d =>
    rw [deviceEffect, frWren, noRx_flash, setFram_flash]
    exact ⟨rfl, .inl rfl⟩
  case frWrite d a bytes =>
    simp only [deviceEffect, frWrite]
    split
    · rw [noRx_flash]
      split
      · rw [setFram_flash]; exact ⟨rfl, .inl rfl⟩
      · exact ⟨rfl, .inl rfl⟩
    · exact ⟨rfl, .inl rfl⟩
  case frRead d a n =>
    simp only [deviceEffect, frRead]
    split <;> exact ⟨rfl, .inl rfl⟩
  all_goals exact ⟨rfl, .inl rfl⟩

theorem setFram_fram (s : State) (d e : FramSel) (f : Fram) :
    (s.setFram d f).fram e = if e = d then f else s.fram e := by
  split
  · subst e; exact setFram_fram_self s d f
  · exact setFram_fram_ne s d e f ‹_›

/-- A frame leaves an FRAM's array or writes bytes to it (rule R77). -/
theorem deviceEffect_fram (i : Instr) (s : State) (d : FramSel) :
    ((deviceEffect i s).fram d).array = (s.fram d).array ∨ ∃ a bytes,
      ((deviceEffect i s).fram d).array = (s.fram d).array.writeWrap (s.cfg.framBytes d.dev) a bytes := by
  cases i
  case flWren =>
    simp only [deviceEffect, flWren, noRx_fram]
    split
    · exact .inl rfl
    · rw [fram_setFlash]; exact .inl rfl
  case flRdsr => exact .inl (by rw [deviceEffect, flRdsr, useFree_fram, setRx_fram])
  case flPp p words =>
    simp only [deviceEffect, flPp]
    split
    · rw [noRx_fram, flashCommand_fram]; exact .inl rfl
    · rw [malformed_fram]; exact .inl rfl
  case flSe p => rw [deviceEffect, flSe, noRx_fram, flashCommand_fram]; exact .inl rfl
  case flBe p => rw [deviceEffect, flBe, noRx_fram, flashCommand_fram]; exact .inl rfl
  case flUlbpr => rw [deviceEffect, flUlbpr, noRx_fram, flashProtection_fram]; exact .inl rfl
  case flProtect data => rw [deviceEffect, flProtect, noRx_fram, flashProtection_fram]; exact .inl rfl
  case flRead a n =>
    simp only [deviceEffect, flRead]
    split
    · split
      · rw [malformed_fram]; exact .inl rfl
      · rw [setRx_fram]; exact .inl rfl
    · rw [malformed_fram]; exact .inl rfl
  case frWren e =>
    rw [deviceEffect, frWren, noRx_fram, setFram_fram]
    split
    · subst d; exact .inl rfl
    · exact .inl rfl
  case frWrite e a bytes =>
    simp only [deviceEffect, frWrite]
    split
    · rw [noRx_fram]
      split
      · rw [setFram_fram]
        split
        · subst d; exact .inr ⟨_, _, rfl⟩
        · exact .inl rfl
      · exact .inl rfl
    · rw [malformed_fram]; exact .inl rfl
  case frRead e a n =>
    simp only [deviceEffect, frRead]
    split
    · rw [setRx_fram]; exact .inl rfl
    · rw [malformed_fram]; exact .inl rfl
  all_goals exact .inl rfl

/-! ### The stores' canonical form -/

/-- The device arrays in canonical form. -/
def State.ArraysOk (s : State) : Prop :=
  s.flash.array.wf s.cfg.flashBytes = true ∧ ∀ d : FramSel, (s.fram d).array.wf (s.cfg.framBytes d.dev) = true

/-- What `memoryOk` asks, store by store. -/
theorem memoryOk_iff (s : State) : s.memoryOk = true ↔
    s.ArraysOk ∧ s.ring.wf s.cfg.ringN s.cfg.setWords = true ∧ ∀ op, s.flash.op = some op → op.inPage s.cfg = true := by
  have hd : (∀ d : FramSel, (s.fram d).array.wf (s.cfg.framBytes d.dev) = true) ↔
      s.fram1.array.wf s.cfg.framBytes1 = true ∧ s.fram2.array.wf s.cfg.framBytes2 = true :=
    ⟨fun h => ⟨h .fram1, h .fram2⟩, fun h d => by cases d; exacts [h.1, h.2]⟩
  rw [State.ArraysOk, hd]
  simp only [State.memoryOk, Bool.and_eq_true, Option.all_eq_true_iff_get, and_assoc]
  cases s.flash.op <;> simp

theorem ring_wf_iff (size words : Nat) (r : Ring) : r.wf size words = true ↔
    storeWf (zeroSample words) size r.slots = true ∧ r.w.toNat < size ∧ ∀ p ∈ r.slots, p.2.length = words := by
  simp only [Ring.wf, Bool.and_eq_true, decide_eq_true_iff, List.all_eq_true, beq_iff_eq, and_assoc]

/-- RING_W after a push (rule R46). -/
theorem push_w (size words : Nat) (r : Ring) (v : Sample) (h0 : 0 < size) (h : size ≤ 2 ^ 32) :
    (r.push size words v).w.toNat = (r.w.toNat + 1) % size := by
  show (BitVec.ofNat 32 ((r.w.toNat + 1) % size)).toNat = _
  rw [BitVec.toNat_ofNat, Nat.mod_eq_of_lt ((Nat.mod_lt _ h0).trans_le h)]

theorem ring_wf_push {size words : Nat} {r : Ring} (v : Sample) (h0 : 0 < size) (h : size ≤ 2 ^ 32)
    (hr : r.wf size words = true) : (r.push size words v).wf size words = true := by
  obtain ⟨hs, hw, hl⟩ := (ring_wf_iff size words r).mp hr
  rw [ring_wf_iff, push_w size words r v h0 h]
  exact ⟨storeWf_write _ size _ _ _ hs hw, Nat.mod_lt _ h0, sized_push size words r v hl⟩

theorem ring_wf_pushes {p : Params} (hp : p.Ok) {r : Ring} (vs : List Sample) (hr : r.wf p.ringN p.setWords = true) :
    (vs.foldl (fun r v => r.push p.ringN p.setWords v) r).wf p.ringN p.setWords = true := by
  have hn := hp.ring.1
  exact List.foldlRecOn (motive := fun r : Ring => r.wf p.ringN p.setWords = true) vs _ hr
    fun _ h v _ => ring_wf_push v (by omega) hp.ring_le h

/-- A page program's operation stays in its page (rules R71, R123). -/
theorem flashTarget_inPage {p : Params} (hp : p.Ok) {i : Instr} {op : FlashOp} (hi : i.WellFormed)
    (h : flashTarget p i = some op) : op.inPage p = true := by
  cases i <;> simp only [flashTarget, Option.some.injEq, reduceCtorEq] at h <;> subst h
  case flPp q words =>
    have hw : words.length ≤ 128 := by
      by_contra hc
      simp [Instr.WellFormed, Instr.illFormed, Config.pageWords, hc] at hi
    have ha : (byteAddrOf q).toNat % 256 = 0 := by rw [toNat_byteAddrOf, Nat.mul_mod_right]
    simp only [FlashOp.inPage, hp.pageBytes, length_halvesBytes, ha, decide_true, Bool.true_and, decide_eq_true_iff]
    omega
  all_goals rfl

/-- A program inside its page ends inside the array (rules R47, R71). -/
theorem program_in_array {p : Params} (hp : p.Ok) {a : FlashAddr} {bytes : List Byte}
    (h : (FlashOp.program a bytes).inPage p = true) : a.toNat + bytes.length ≤ p.flashBytes := by
  simp only [FlashOp.inPage, hp.pageBytes, Bool.and_eq_true, decide_eq_true_iff] at h
  have := a.isLt
  rw [hp.flashBytes]
  omega

/-- From `s` to `t` the build stands and, where it is legal, the stores stay canonical. -/
def MemoryKept (s t : State) : Prop := t.cfg = s.cfg ∧ (s.cfg.Ok → s.memoryOk = true → t.memoryOk = true)

theorem MemoryKept.trans {s t u : State} (h : MemoryKept s t) (h' : MemoryKept t u) : MemoryKept s u :=
  ⟨h'.1.trans h.1, fun hp hm => h'.2 (h.1 ▸ hp) (h.2 hp hm)⟩

/-- Devices that stand and a ring that takes pushes alone. -/
theorem memoryKept_of_pushes {s t : State} (vs : List Sample) (hc : t.cfg = s.cfg) (hf : t.flash = s.flash)
    (h1 : t.fram1 = s.fram1) (h2 : t.fram2 = s.fram2)
    (hr : t.ring = vs.foldl (fun r v => r.push s.cfg.ringN s.cfg.setWords v) s.ring) : MemoryKept s t := by
  refine ⟨hc, fun hp hm => ?_⟩
  obtain ⟨⟨hflash, hfram⟩, hring, hop⟩ := (memoryOk_iff s).mp hm
  rw [memoryOk_iff, State.ArraysOk, hc, hf, hr]
  refine ⟨⟨hflash, fun d => ?_⟩, ring_wf_pushes hp vs hring, hop⟩
  have hd : t.fram d = s.fram d := by cases d; exacts [h1, h2]
  rw [hd]
  exact hfram d

theorem OnlyTask.memoryKept {k : Task} {s t : State} (h : OnlyTask k s t) : MemoryKept s t := by
  obtain ⟨vs, hv⟩ := h.ring
  exact memoryKept_of_pushes vs h.cfg h.flash h.fram1 h.fram2 hv

theorem memoryKept_deviceEffect (i : Instr) (s : State) : MemoryKept s (deviceEffect i s) := by
  have same := engineSame_deviceEffect i s
  refine ⟨same.cfg, fun hp hm => ?_⟩
  obtain ⟨⟨hflash, hfram⟩, hring, hop⟩ := (memoryOk_iff s).mp hm
  obtain ⟨harray, hnew⟩ := deviceEffect_flash i s
  rw [memoryOk_iff, State.ArraysOk, same.cfg, same.ring, harray]
  refine ⟨⟨hflash, fun d => ?_⟩, hring, fun op h => ?_⟩
  · rcases deviceEffect_fram i s d with h | ⟨a, bytes, h⟩ <;> rw [h]
    · exact hfram d
    · exact wf_writeWrap _ (hp.framBytes d).1 bytes _ a (hfram d)
  · rcases hnew with hold | ⟨hi, htarget⟩
    · exact hop op (hold ▸ h)
    · exact flashTarget_inPage hp hi (htarget ▸ h)

theorem memoryKept_setPort (s : State) (p : Port) : MemoryKept s (s.setPort p) := ⟨rfl, fun _ h => h⟩

theorem memoryKept_setEnv (s : State) (e : Env) : MemoryKept s (s.setEnv e) := ⟨rfl, fun _ h => h⟩

theorem SliceSends.memoryKept {k : Task} {s t : State} (h : SliceSends k s t) : MemoryKept s t := by
  rcases h with h | ⟨i, u, hu, ht⟩
  · exact h.memoryKept
  · exact hu.memoryKept.trans ((memoryKept_setPort u _).trans ((memoryKept_deviceEffect i _).trans ht.memoryKept))

theorem memoryKept_arbitrate (s : State) : MemoryKept s (arbitrate s) :=
  memoryKept_of_pushes [] (by simp) (by simp) (by simp) (by simp) (by simp)

theorem memoryKept_endTick (s : State) : MemoryKept s (endTick s) := by
  rw [endTick_eq]
  exact memoryKept_of_pushes s.env.between.flatten rfl rfl rfl rfl rfl

theorem memoryKept_tick {s t : State} (h : tick s = .next t) : MemoryKept s t := by
  obtain ⟨u, hu, rfl⟩ := tick_next h
  obtain ⟨k, hk⟩ := hu.sends
  exact (memoryKept_arbitrate s).trans (hk.memoryKept.trans (memoryKept_endTick u))

theorem memoryKept_writeReg (s : State) (v : Word) (r : Reg) : MemoryKept s (writeReg s v r) := by
  cases r <;> exact ⟨rfl, fun _ h => h⟩

theorem memoryKept_flashDone (s : State) : MemoryKept s (flashDone s) := by
  rcases flashDone_cases s with h | ⟨op, hop, h⟩ <;> rw [h]
  · exact ⟨rfl, fun _ h => h⟩
  · refine ⟨rfl, fun hp hm => ?_⟩
    obtain ⟨⟨hflash, hfram⟩, hring, hin⟩ := (memoryOk_iff s).mp hm
    have harray := wf_apply s.cfg op _ hflash fun a bytes e => program_in_array hp (e ▸ hin op hop)
    refine (memoryOk_iff _).mpr ⟨⟨harray, fun d => ?_⟩, hring, fun _ e => nomatch e⟩
    rw [fram_setFlash]
    exact hfram d

theorem arraysOk_loseTarget (op : FlashOp) (s : State) (hp : s.cfg.Ok) (h : s.ArraysOk) :
    (loseTarget op s).ArraysOk := by
  refine ⟨wf_scramble _ ?_ _ _ _ _ h.1, fun d => ?_⟩
  · show 0 < s.cfg.flashBytes
    rw [hp.flashBytes]; decide
  · rw [loseTarget, useFree_fram, fram_setFlash]
    exact h.2 d

theorem arraysOk_loseFram (d : FramSel) (a : FramAddr) (n : Nat) (s : State) (hp : s.cfg.Ok) (h : s.ArraysOk) :
    (loseFram d a n s).ArraysOk := by
  unfold State.ArraysOk loseFram
  rw [useFree_flash, useFree_cfg, setFram_flash, setFram_cfg]
  refine ⟨h.1, fun e => ?_⟩
  rw [useFree_fram, setFram_fram]
  split
  · subst e
    exact wf_scramble _ (hp.framBytes d).1 _ _ _ _ (h.2 d)
  · exact h.2 e

/-- A power loss scrambles bytes inside the arrays, and all but the arrays is reset (rules R88, R258). -/
theorem memoryKept_powerLost (fs : List Frame) (s : State) :
    MemoryKept s (powerBack (loseInFrames fs (loseFlash s))) := by
  refine ⟨powerLost_cfg fs s, fun hp hm => ?_⟩
  have hlost := powerLost_induction (P := fun t => t.cfg.Ok ∧ t.ArraysOk)
    (fun op t h => ⟨h.1, arraysOk_loseTarget op t h.1 h.2⟩)
    (fun d a n t h => ⟨by simpa [loseFram] using h.1, arraysOk_loseFram d a n t h.1 h.2⟩)
    fs s ⟨hp, ((memoryOk_iff s).mp hm).1⟩
  generalize loseInFrames fs (loseFlash s) = t at hlost
  obtain ⟨hok, hflash, hfram⟩ := hlost
  have hring := hok.ring.1
  refine (memoryOk_iff _).mpr ⟨⟨hflash, fun d => ?_⟩, ?_, fun _ e => nomatch e⟩
  · cases d
    · exact hfram .fram1
    · exact hfram .fram2
  · refine (ring_wf_iff _ _ _).mpr ⟨rfl, ?_, fun _ h => nomatch h⟩
    show 0 < t.cfg.ringN
    omega

theorem StepTo.memoryKept {s t : State} (h : StepTo s t) : MemoryKept s t := by
  cases h with
  | device p i hi => exact (memoryKept_setPort s p).trans (memoryKept_deviceEffect i _)
  | unknown p n => exact ⟨rfl, fun _ h => h⟩
  | ticks e h => exact (memoryKept_setEnv s e).trans (memoryKept_tick h)
  | writes e v r => exact (memoryKept_setEnv s e).trans (memoryKept_writeReg _ v r)
  | reads e => exact memoryKept_setEnv s e
  | pushes e v => exact memoryKept_of_pushes [v] rfl rfl rfl rfl rfl
  | completes e => exact (memoryKept_setEnv s e).trans (memoryKept_flashDone _)
  | powerFails e fs => exact (memoryKept_setEnv s e).trans (memoryKept_powerLost fs _)

/-- Settles O50: every kind of step keeps the stores canonical. -/
theorem storesStayCanonical : Obligations.StoresStayCanonical := by
  unfold Obligations.StoresStayCanonical
  intro s t hp hm h
  exact (step_to h).memoryKept.2 hp hm

end Sys2Proof.Machine

namespace Sys2Proof.Machine

/-! ### Where a slice leaves its task -/

/-- Task `k` is at an op boundary with LOCK free, and idle if it is acknowledged. -/
structure Resting (k : Task) (s : State) : Prop where
  lockV : s.lockV = false
  fs    : (s.ctxAt k).fs = .boundary
  idle  : bitAt s.ack k = true → (s.ctxAt k).phase = .idle

/-- Task `k` runs, inside a device operation, and holds LOCK; it is not acknowledged. -/
structure Inside (k : Task) (s : State) : Prop where
  lockV : s.lockV = true
  lockK : s.lockK = k
  phase : (s.ctxAt k).phase = .run
  fs    : (s.ctxAt k).fs ≠ .boundary
  ack   : bitAt s.ack k = false

/-- Task `k` keeps an operation, that of its class's sequence: `OpOk` at one task. -/
def State.KeptOp (s : State) (k : Task) : Prop := (s.ctxAt k).op ≠ .none ∧ s.SequenceOp k

/-- The operation kept and its place in the sequence depend on OP, OPI and the build alone. -/
theorem keptOp_congr {s t : State} {k : Task} (hc : t.cfg = s.cfg) (ho : (t.ctxAt k).op = (s.ctxAt k).op)
    (hi : (t.ctxAt k).opi = (s.ctxAt k).opi) (h : s.KeptOp k) : t.KeptOp k := by
  simp only [State.KeptOp, State.SequenceOp, State.taskCfg, hc, ho, hi]
  exact h

theorem Inside.congr {k : Task} {s t : State} (h : Inside k s) (hv : t.lockV = s.lockV) (hk : t.lockK = s.lockK)
    (ha : t.ack = s.ack) (hp : (t.ctxAt k).phase = (s.ctxAt k).phase) (hf : (t.ctxAt k).fs ≠ .boundary) : Inside k t :=
  ⟨hv.trans h.lockV, hk.trans h.lockK, hp.trans h.phase, hf, by rw [ha]; exact h.ack⟩

/-- A task that ends with LOCK free rests (rules R214-R216). -/
theorem Ends.resting {k : Task} {s t : State} (h : Ends k s t) (hv : s.lockV = false) (ha : bitAt s.ack k = false) :
    Resting k t := by
  rcases h with ⟨st, rfl⟩ | rfl | rfl
  · refine ⟨(taskOnly_finish k st s).lockV.trans hv, ?_, ?_⟩
    · rw [ctxAt_finish, if_pos rfl]; rfl
    · rw [ctxAt_finish, if_pos rfl, finish_eq]
      by_cases hs : s.scan = some k <;> simp [hs, ha]
  · exact ⟨hv, by rw [ctxAt_retire, if_pos rfl]; rfl, fun _ => by rw [ctxAt_retire, if_pos rfl]⟩
  · exact ⟨hv, by rw [ctxAt_withdraw, if_pos rfl]; rfl, fun _ => by rw [ctxAt_withdraw, if_pos rfl]; rfl⟩

theorem startOp_inside (k : Task) (op : DeviceOp) (s : State) (h : op ≠ .none) (hp : (s.ctxAt k).phase = .run)
    (ha : bitAt s.ack k = false) : Inside k (startOp k op s) := by
  obtain ⟨hfs, -, -, hph⟩ := startOp_ctxAt k op s h
  have hlock : (startOp k op s).lockV = true ∧ (startOp k op s).lockK = k ∧ (startOp k op s).ack = s.ack := by
    cases op
    case none => exact absurd rfl h
    case fram d a n => simp [startOp, startWop]
    all_goals simp [startOp, startFop]
  obtain ⟨hv, hk, hack⟩ := hlock
  exact ⟨hv, hk, hph.trans hp, by simp [hfs], by rw [hack, ha]⟩

/-- A running task at an op boundary, LOCK free and not acknowledged: where a class takes its step. -/
structure Ready (k : Task) (s : State) : Prop where
  lockV : s.lockV = false
  phase : (s.ctxAt k).phase = .run
  fs    : (s.ctxAt k).fs = .boundary
  ack   : bitAt s.ack k = false

theorem Ready.resting {k : Task} {s : State} (h : Ready k s) : Resting k s :=
  ⟨h.lockV, h.fs, fun ha => by simp [h.ack] at ha⟩

theorem Ready.internal {k : Task} {s t : State} (h : Ready k s) (hi : Internal k s t) : Ready k t :=
  ⟨hi.lockV.trans h.lockV, hi.phase.trans h.phase, hi.fs.trans h.fs, by rw [hi.ack, h.ack]⟩

theorem Ready.transact {k : Task} {s : State} (h : Ready k s) (i : Instr) : Ready k (transact i s) :=
  ⟨by simp [h.lockV], by simp [h.phase], by simp [h.fs], by simp [h.ack]⟩

theorem Ready.reads {k : Task} {s t : State} (h : Ready k s) (hr : ReadsOnce k s t) : Ready k t := by
  rcases hr with hi | ⟨i, hi⟩
  · exact h.internal hi
  · exact (h.transact i).internal hi

/-- An op boundary leaves its task resting, or inside an operation of its sequence. -/
theorem BoundaryStep.placed {k : Task} {s t : State} (h : BoundaryStep k s t) (hs : Ready k s) :
    Resting k t ∨ Inside k t ∧ t.KeptOp k := by
  cases h with
  | works h => exact .inl (hs.reads h).resting
  | ends h h' => exact .inl (h'.resting (hs.reads h).lockV (hs.reads h).ack)
  | @starts u op h hop =>
    have hu := hs.internal h
    by_cases h0 : op = .none
    · subst h0; exact .inl hu.resting
    · obtain ⟨-, ho, -, -⟩ := startOp_ctxAt k op u h0
      exact .inr ⟨startOp_inside k op u h0 hu.phase hu.ack, by rw [ho]; exact h0, hop h0⟩

section slice
variable {k : Task} {cls : OpClass} {r : ClassRule}

theorem opComplete_resting (hr : r.Orderly k cls) (s : State) (hv : s.lockV = false)
    (hf : (s.ctxAt k).fs = .boundary) (ha : bitAt s.ack k = false) : Resting k (opComplete k r s) := by
  have hc := hr.commit s
  have hv' := hc.lockV.trans hv
  have ha' : bitAt (r.commit s).1.ack k = false := by rw [hc.ack, ha]
  rcases opComplete_ends k r s with h | h
  · rw [h]
    exact ⟨hv', hc.fs.trans hf, fun h => by simp [ha'] at h⟩
  · exact h.resting hv' ha'

/-- The end of a device operation leaves the task at its op boundary with LOCK free (rules R152, R153, R158). -/
theorem endOp_resting (hr : r.Orderly k cls) (s : State) (ha : bitAt s.ack k = false) : Resting k (endOp k r s) :=
  opComplete_resting hr _ rfl (by simp [State.setFs]) ha

theorem pollLimit_placed (s : State) (h : Inside k s) :
    Resting k (pollLimit k s) ∨ Inside k (pollLimit k s) ∧ (s.KeptOp k → (pollLimit k s).KeptOp k) := by
  rw [pollLimit]
  split
  · exact .inl (Ends.resting (.inl ⟨_, rfl⟩) rfl h.ack)
  · exact .inr ⟨h, id⟩

/-- A poll ends the operation, ends the task or waits (rules R153, R154). -/
theorem pollStep_placed (hr : r.Orderly k cls) (s : State) (h : Inside k s) :
    Resting k (pollStep k r s) ∨ Inside k (pollStep k r s) ∧ (s.KeptOp k → (pollStep k r s).KeptOp k) := by
  simp only [pollStep]
  split
  · have hin : Inside k ((transact .flRdsr s).modCtx k fun c => { c with polls := nextPolls c.polls }) :=
      h.congr (by simp) (by simp) (by simp) (by simp) (by simpa using h.fs)
    refine (pollLimit_placed _ hin).imp_right fun hp => ⟨hp.1, fun hk => hp.2 ?_⟩
    exact keptOp_congr (by simp) (by simp) (by simp) hk
  · exact .inl (endOp_resting hr _ (by simp [h.ack]))

/-- A command on the wire: the task waits for the Flash, its operation kept. -/
theorem issued_placed (i : Instr) (s : State) (h : Inside k s) :
    Inside k ((transact i s).setFs k .issued) ∧ (s.KeptOp k → ((transact i s).setFs k .issued).KeptOp k) :=
  ⟨h.congr (by simp [State.setFs]) (by simp [State.setFs]) (by simp [State.setFs]) (by simp [State.setFs])
      (by simp [State.setFs]),
    keptOp_congr (by simp [State.setFs]) (by simp [State.setFs]) (by simp [State.setFs])⟩

/-- The data of a command leave the task where it is. -/
theorem data_inside (hr : r.Orderly k cls) (n : Nat) (s : State) (h : Inside k s) :
    Inside k (r.data n s).1 ∧ (s.KeptOp k → (r.data n s).1.KeptOp k) := by
  have hd := hr.data n s
  have hctx := ctxAt_congr (hr.dataCtx n s) k
  exact ⟨h.congr hd.lockV hd.lockK hd.ack hd.phase (by rw [hctx]; exact h.fs),
    keptOp_congr hd.cfg (by rw [hctx]) (by rw [hctx])⟩

/-- A command leaves its task polling, or at its op boundary where the operation ends with its frame (rules R151, R152,
R158). -/
theorem commandStep_placed (hr : r.Orderly k cls) (s : State) (h : Inside k s) :
    Resting k (commandStep k r s) ∨ Inside k (commandStep k r s) ∧ (s.KeptOp k → (commandStep k r s).KeptOp k) := by
  cases ho : (s.ctxAt k).op with
  | prog p n =>
    obtain ⟨hd, hkd⟩ := data_inside hr n s h
    obtain ⟨hi, hki⟩ := issued_placed (.flPp p (r.data n s).2) _ hd
    rw [commandStep_prog k r s p n ho]
    exact .inr ⟨hi, fun hk => hki (hkd hk)⟩
  | se p => rw [commandStep_se k r s p ho]; exact .inr (issued_placed _ s h)
  | be p => rw [commandStep_be k r s p ho]; exact .inr (issued_placed _ s h)
  | protect => rw [commandStep_protect k r s ho]; exact .inl (endOp_resting hr _ (by simp [h.ack]))
  | unlock => rw [commandStep_unlock k r s ho]; exact .inl (endOp_resting hr _ (by simp [h.ack]))
  | fram d a n =>
    rw [commandStep_fram k r s d a n ho]
    exact .inl (endOp_resting hr _ (by simp [(data_inside hr n s h).1.ack]))
  | none => rw [commandStep_none k r s ho]; exact .inl (endOp_resting hr s h.ack)

/-- A slice of the LOCK holder. -/
theorem slice_holder (hr : r.Orderly k cls) (s : State) (h : Inside k s) :
    Resting k (slice k r s) ∨ Inside k (slice k r s) ∧ (s.KeptOp k → (slice k r s).KeptOp k) := by
  cases hf : (s.ctxAt k).fs with
  | boundary => exact absurd hf h.fs
  | enabled => rw [slice_command k r s h.phase hf]; exact commandStep_placed hr s h
  | issued => rw [slice_poll k r s h.phase hf]; exact pollStep_placed hr s h

theorem runTask_placed (hr : r.Orderly k cls) (s : State) (hs : (s.taskCfg k).cls = cls) (h : Ready k s) :
    Resting k (runTask k r s) ∨ Inside k (runTask k r s) ∧ (runTask k r s).KeptOp k := by
  rw [runTask, if_pos h.fs]
  exact (hr.boundary s hs).placed h

theorem finishAck_resting (s : State) (hv : s.lockV = false) (hf : (s.ctxAt k).fs = .boundary) :
    Resting k (finishAck k s) :=
  ⟨hv, by simp [finishAck, hf], fun _ => by simp [finishAck]⟩

/-- Begin leaves the task ready for its first step (rule R218). -/
theorem begun_ready (hr : r.Orderly k cls) (s : State) (hv : s.lockV = false) (ha : bitAt s.ack k = false) :
    Ready k (r.start (beginTask k s)) := by
  have hb : Ready k (beginTask k s) := ⟨hv, by rw [ctxAt_beginTask]; rfl, by rw [ctxAt_beginTask]; rfl, ha⟩
  exact hb.internal (hr.start _)

/-- A slice of a task at its op boundary, LOCK free: the task scan chose (rules R213, R218-R220). -/
theorem slice_scanned (hr : r.Orderly k cls) (s : State) (hs : (s.taskCfg k).cls = cls) (hv : s.lockV = false)
    (hf : (s.ctxAt k).fs = .boundary) (ha : bitAt s.ack k = false) :
    Resting k (slice k r s) ∨ Inside k (slice k r s) ∧ (slice k r s).KeptOp k := by
  cases hp : (s.ctxAt k).phase with
  | finish => rw [slice_finish k r s hp]; exact .inl (finishAck_resting s hv hf)
  | run => rw [slice_run k r s hp]; exact runTask_placed hr s hs ⟨hv, hp, hf, ha⟩
  | idle =>
    have hready := begun_ready hr s hv ha
    rw [slice_idle k r s hp]
    split
    · exact runTask_placed hr _ (by rw [State.taskCfg, (hr.start _).cfg]; exact hs) hready
    · exact .inl (Ends.resting (.inl ⟨_, rfl⟩) hready.lockV hready.ack)

end slice

/-! ### LOCK, the positions and ACK from step to step -/

/-- From `s` to `t` the agreement of LOCK and the positions, of ACK and PHASE, and of the kept operations holds on. -/
def PositionsKept (s t : State) : Prop := s.LockOk → s.AckOk → t.LockOk ∧ t.AckOk ∧ (s.OpOk → t.OpOk)

theorem PositionsKept.refl (s : State) : PositionsKept s s := fun hl ha => ⟨hl, ha, id⟩

theorem PositionsKept.trans {s t u : State} (h : PositionsKept s t) (h' : PositionsKept t u) : PositionsKept s u := by
  intro hl ha
  obtain ⟨hl', ha', ho⟩ := h hl ha
  obtain ⟨hl'', ha'', ho'⟩ := h' hl' ha'
  exact ⟨hl'', ha'', fun h => ho' (ho h)⟩

/-- The position of a context: PHASE, FS, OPI and the operation kept. -/
def Ctx.position (c : Ctx) : Phase × SubStep × BitVec 4 × DeviceOp := (c.phase, c.fs, c.opi, c.op)

/-- A context that has gone back to rest: idle at the op boundary. -/
def Ctx.AtRest (c : Ctx) : Prop := c.phase = .idle ∧ c.fs = .boundary

/-- LOCK stands, no ACK bit rises, and each task keeps its position or, if it does not hold LOCK, goes to rest. -/
theorem positionsKept_of_rest {s t : State} (hc : t.cfg = s.cfg) (hv : t.lockV = s.lockV) (hk : t.lockK = s.lockK)
    (hack : ∀ j, bitAt t.ack j = true → bitAt s.ack j = true)
    (hctx : ∀ j, (t.ctxAt j).position = (s.ctxAt j).position ∨ s.holdsLock j = false ∧ (t.ctxAt j).AtRest) :
    PositionsKept s t := by
  simp only [Ctx.position, Prod.mk.injEq] at hctx
  intro hl ha
  have moved (j : Task) (hj : (t.ctxAt j).fs ≠ .boundary) : (t.ctxAt j).fs = (s.ctxAt j).fs ∧
      (t.ctxAt j).opi = (s.ctxAt j).opi ∧ (t.ctxAt j).op = (s.ctxAt j).op := by
    rcases hctx j with ⟨-, h⟩ | ⟨-, -, hb⟩
    · exact h
    · exact absurd hb hj
  refine ⟨⟨fun hlock => ?_, fun j hj => ?_⟩, fun j hj => ?_, fun ho j hj => ?_⟩
  · rw [hv] at hlock
    obtain ⟨hp, hf⟩ := hl.1 hlock
    rw [hk]
    rcases hctx s.lockK with ⟨hp', hf', -⟩ | ⟨hn, -⟩
    · rw [hp', hf']; exact ⟨hp, hf⟩
    · simp [State.holdsLock, hlock] at hn
  · rw [hv, hk]
    exact hl.2 j (by rw [← (moved j hj).1]; exact hj)
  · rcases hctx j with ⟨hp, -⟩ | ⟨-, hi, -⟩
    · rw [hp]; exact ha j (hack j hj)
    · exact hi
  · obtain ⟨hf, hi, hop⟩ := moved j hj
    exact keptOp_congr hc hop hi (ho j (by rw [← hf]; exact hj))

/-- LOCK, ACK and the contexts stand. -/
theorem positionsKept_of_same {s t : State} (hc : t.cfg = s.cfg) (hv : t.lockV = s.lockV) (hk : t.lockK = s.lockK)
    (ha : t.ack = s.ack) (hctx : t.ctx = s.ctx) : PositionsKept s t :=
  positionsKept_of_rest hc hv hk (fun _ h => ha ▸ h) fun j => .inl (by rw [ctxAt_congr hctx])

theorem positionsKept_release (s : State) : PositionsKept s (release s) := by
  refine positionsKept_of_rest rfl rfl rfl (fun j h => ?_) fun _ => .inl rfl
  rw [bitAt_release, Bool.and_eq_true] at h
  exact h.1

/-- One supersede moves its own task alone, and not the LOCK holder (rule R212). -/
theorem position_supersedeTask (lo j : Task) (s : State) :
    ((supersedeTask lo s).ctxAt j).position = (s.ctxAt j).position ∨
      s.holdsLock j = false ∧ ((supersedeTask lo s).ctxAt j).AtRest := by
  simp only [supersedeTask]
  split
  · rw [ctxAt_setReq, ctxAt_modCtx]
    by_cases hj : j = lo
    · rw [if_pos hj, hj]; exact .inl rfl
    · rw [if_neg hj]; exact .inl rfl
  · rename_i hh
    rw [ctxAt_retire]
    by_cases hj : j = lo
    · rw [if_pos hj, hj]; exact .inr ⟨eq_false_of_ne_true hh, rfl, rfl⟩
    · rw [if_neg hj, ctxAt_setReq, ctxAt_modCtx, if_neg hj]; exact .inl rfl

theorem positionsKept_supersedeTask (lo : Task) (s : State) : PositionsKept s (supersedeTask lo s) := by
  have same := taskOnly_supersedeTask lo s
  refine positionsKept_of_rest same.cfg same.lockV same.lockK (fun j h => ?_) fun j => position_supersedeTask lo j s
  rwa [supersedeTask_eq] at h

theorem positionsKept_supersede (s : State) : PositionsKept s (supersede s) :=
  List.foldlRecOn (motive := PositionsKept s) _ _ (.refl s)
    fun _ h lo _ => h.trans (positionsKept_supersedeTask lo _)

theorem positionsKept_withdrawAll (s : State) : PositionsKept s (withdrawAll s) := by
  have same := taskOnly_withdrawAll s
  have hack : (withdrawAll s).ack = s.ack := by simp only [withdrawAll]
  refine positionsKept_of_rest same.cfg same.lockV same.lockK (fun j h => by rwa [hack] at h) fun j => ?_
  rw [ctxAt_withdrawAll]
  split
  · rename_i h
    simp only [isWithdrawn, Bool.and_eq_true, Bool.not_eq_true'] at h
    exact .inr ⟨h.2, rfl, rfl⟩
  · exact .inl rfl

theorem positionsKept_arbitrate (s : State) : PositionsKept s (arbitrate s) := by
  have hport : PositionsKept s (s.setPort { s.port with rx := .none, sent := [] }) :=
    positionsKept_of_same rfl rfl rfl rfl rfl
  exact hport.trans ((positionsKept_release _).trans
    ((positionsKept_supersede _).trans (positionsKept_withdrawAll _)))

theorem inside_of_lockOk {s : State} (hl : s.LockOk) (ha : s.AckOk) (hv : s.lockV = true) : Inside s.lockK s := by
  obtain ⟨hp, hf⟩ := hl.1 hv
  refine ⟨hv, rfl, hp, hf, ?_⟩
  by_contra h
  have := ha s.lockK (by simpa using h)
  simp [hp] at this

/-- The other tasks' positions stand while task `k`, that found LOCK free or its own, comes to rest or to hold it. -/
theorem positionsKept_of_placed {k : Task} {s t : State} (hsend : SliceSends k s t)
    (hother : ∀ j, j ≠ k → (s.ctxAt j).fs = .boundary)
    (h : Resting k t ∨ Inside k t ∧ (s.OpOk → t.KeptOp k)) (ha : s.AckOk) :
    t.LockOk ∧ t.AckOk ∧ (s.OpOk → t.OpOk) := by
  have only (j : Task) (hj : (t.ctxAt j).fs ≠ .boundary) : j = k := by
    by_contra hne
    exact hj ((congrArg Ctx.fs (hsend.others j hne)).trans (hother j hne))
  have acked (hk : bitAt t.ack k = true → (t.ctxAt k).phase = .idle) : t.AckOk := by
    intro j hj
    by_cases hne : j = k
    · subst hne; exact hk hj
    · rw [hsend.others j hne]
      exact ha j (by rw [← hsend.acks j hne]; exact hj)
  rcases h with h | ⟨h, hop⟩
  · have none_inside (j : Task) (hj : (t.ctxAt j).fs ≠ .boundary) : False := hj (only j hj ▸ h.fs)
    exact ⟨⟨fun hv => by simp [h.lockV] at hv, fun j hj => (none_inside j hj).elim⟩, acked h.idle,
      fun _ j hj => (none_inside j hj).elim⟩
  · refine ⟨⟨fun _ => ?_, fun j hj => ?_⟩, acked fun hk => ?_, fun ho j hj => ?_⟩
    · rw [h.lockK]; exact ⟨h.phase, h.fs⟩
    · rw [only j hj]; exact ⟨h.lockV, h.lockK⟩
    · simp [h.ack] at hk
    · rw [only j hj]; exact hop ho

/-- The slice of the selected task (rule R213). -/
theorem positionsKept_serve (s : State) (k : Task) (hk : s.sel = some k) :
    PositionsKept s (slice k (taskRule k s) s) := by
  intro hl ha
  have hr := orderly_classRule k (s.taskCfg k).cls
  rw [State.sel] at hk
  split at hk
  · rename_i hv
    obtain rfl : s.lockK = k := by simpa using hk
    have hin := inside_of_lockOk hl ha hv
    refine positionsKept_of_placed (serve_sends _ s) (fun j hj => ?_) ?_ ha
    · by_contra hf
      exact hj (hl.2 j hf).2.symm
    · exact (slice_holder hr s hin).imp_right fun h => ⟨h.1, fun ho => h.2 (ho _ hin.fs)⟩
  · rename_i hv
    have hfree : s.lockV = false := by simpa using hv
    have hbound (j : Task) : (s.ctxAt j).fs = .boundary := by
      by_contra hf
      exact hv (hl.2 j hf).1
    have hack : bitAt s.ack k = false := by
      have := ((scan_some s k).mp hk).1
      simp only [isPending, Bool.and_eq_true, Bool.not_eq_true'] at this
      exact this.2
    exact positionsKept_of_placed (serve_sends k s) (fun j _ => hbound j)
      ((slice_scanned hr s rfl hfree (hbound k) hack).imp_right fun h => ⟨h.1, fun _ => h.2⟩) ha

theorem positionsKept_tick {s t : State} (h : tick s = .next t) : PositionsKept s t := by
  obtain ⟨u, hu, rfl⟩ := tick_next h
  have hend : PositionsKept u (endTick u) := by
    rw [endTick_eq]; exact positionsKept_of_same rfl rfl rfl rfl rfl
  cases hu with
  | idle => exact (positionsKept_arbitrate s).trans hend
  | serves k hk => exact (positionsKept_arbitrate s).trans ((positionsKept_serve _ k hk).trans hend)

theorem positionsKept_modCtx (k : Task) (f : Ctx → Ctx) (s : State)
    (hf : (f (s.ctxAt k)).position = (s.ctxAt k).position) : PositionsKept s (s.modCtx k f) :=
  positionsKept_of_rest rfl rfl rfl (fun _ h => h) fun j => .inl (by
    rw [ctxAt_modCtx]
    split
    · rename_i hj; rw [hf, hj]
    · rfl)

/-- No host write moves a task (rule R22: position fields are the engine's). -/
theorem positionsKept_writeReg (s : State) (v : Word) (r : Reg) : PositionsKept s (writeReg s v r) := by
  cases r with
  | ctx k r => exact positionsKept_modCtx k _ s (by cases r <;> rfl)
  | _ => exact positionsKept_of_same rfl rfl rfl rfl rfl

theorem positionsKept_powerBack (s t : State) : PositionsKept s (powerBack t) := by
  have hreset (k : Task) : (powerBack t).ctxAt k = Ctx.reset := by
    simp [powerBack, State.powerUp, State.setEnv, State.ctxAt, Vector.get_eq_getElem]
  have hrest (k : Task) : ((powerBack t).ctxAt k).fs = .boundary := by rw [hreset k]; rfl
  have hlock : (powerBack t).lockV = false := rfl
  intro _ _
  exact ⟨⟨fun h => by simp [hlock] at h, fun k hk => absurd (hrest k) hk⟩, fun k _ => by rw [hreset k]; rfl,
    fun _ k hk => absurd (hrest k) hk⟩

theorem EngineSame.positionsKept {s t : State} (h : EngineSame s t) : PositionsKept s t :=
  positionsKept_of_same h.cfg h.lockV h.lockK h.ack h.ctx

theorem StepTo.positionsKept {s t : State} (h : StepTo s t) : PositionsKept s t := by
  have env (e : Env) : PositionsKept s (s.setEnv e) := positionsKept_of_same rfl rfl rfl rfl rfl
  cases h with
  | device p i hi =>
    have hport : PositionsKept s (s.setPort p) := positionsKept_of_same rfl rfl rfl rfl rfl
    exact hport.trans (engineSame_deviceEffect i _).positionsKept
  | unknown p n => exact positionsKept_of_same rfl rfl rfl rfl rfl
  | ticks e h => exact (env e).trans (positionsKept_tick h)
  | writes e v r => exact (env e).trans (positionsKept_writeReg _ v r)
  | reads e => exact env e
  | pushes e v => exact positionsKept_of_same rfl rfl rfl rfl rfl
  | completes e =>
    rcases flashDone_cases (s.setEnv e) with h | ⟨op, -, h⟩ <;> rw [h]
    · exact env e
    · exact positionsKept_of_same rfl rfl rfl rfl rfl
  | powerFails e fs => exact positionsKept_powerBack s _

/-- Settles O51: every kind of step keeps LOCK, the positions, the kept operations and ACK in agreement. -/
theorem lockAndAcknowledgeKept : Obligations.LockAndAcknowledgeKept := by
  unfold Obligations.LockAndAcknowledgeKept
  intro s t hl ha h
  exact (step_to h).positionsKept hl ha

end Sys2Proof.Machine

namespace Sys2Proof.Machine

/-! ### Single operations -/

/-- A read of an idle Flash as a whole state (rules R72, R128). -/
theorem exec_flRead_idle (a : FlashAddr) (n : Nat) (s : State) (h1 : 1 ≤ n) (h2 : n ≤ 128)
    (hb : s.flash.busy = false) : exec (.flRead a n) s = .next { s with
      port := { s.port with rx := .data (s.flash.array.readWrap s.cfg.flashBytes a.toNat (2 * n)) } } := by
  rw [exec_frame _ s rfl, deviceEffect, flRead, if_pos (illFormed_flRead a n h1 h2), hb]
  rfl

/-- A read of a busy Flash as a whole state: free bytes (rules R72, R128). -/
theorem exec_flRead_busy (a : FlashAddr) (n : Nat) (s : State) (h1 : 1 ≤ n) (h2 : n ≤ 128)
    (hb : s.flash.busy = true) : exec (.flRead a n) s = .next { s with
      port := { s.port with rx := .data (freeBytes s.env.free (2 * n)) }
      env := { s.env with free := s.env.free + 2 * n } } := by
  have h0 : 2 * n ≠ 0 := by omega
  rw [exec_frame _ s rfl, deviceEffect, flRead, if_pos (illFormed_flRead a n h1 h2), if_pos hb, malformedFrame,
    if_neg h0]
  rfl

/-- Settles O13: the two cases of a busy and an idle Flash. -/
theorem flashReadReturnsArray : Obligations.FlashReadReturnsArray := by
  unfold Obligations.FlashReadReturnsArray
  intro a n s h1 h2
  have hsize (hp : s.cfg.Ok) : s.cfg.flashSectors * 4096 = 16777216 := hp.flashBytes
  cases hb : s.flash.busy with
  | true =>
    exact ⟨_, _, exec_flRead_busy a n s h1 h2 hb, length_freeBytes _ _, fun h => absurd h (by decide), hsize⟩
  | false =>
    exact ⟨_, s.env.free, exec_flRead_idle a n s h1 h2 hb, length_readWrap _ _ _ _,
      fun _ => ⟨rfl, fun i h => getElem_readWrap _ _ _ _ i h⟩, hsize⟩

/-- Without a limit a busy poll ends no task (rule R154). -/
theorem pollLimit_none (k : Task) (s : State) (h : s.cfg.busyPollLimit = none) : pollLimit k s = s := by
  simp [pollLimit, h]

/-- Settles O35: a poll of a busy Flash, which no limit ends. -/
theorem busyPollWaits : Obligations.BusyPollWaits := by
  unfold Obligations.BusyPollWaits
  intro k s hp hf hb hl
  refine ⟨nextPolls (s.ctxAt k).polls, nextPolls_toNat _, ?_⟩
  rw [exec_request, slice_poll k _ s hp hf, pollStep_busy k _ s hb]
  exact congrArg _ (pollLimit_none k _ hl)

/-- A sample-set of S_W words is stored as it is (rule R45). -/
theorem fitSample_of_length {words : Nat} {v : Sample} (h : v.length = words) : fitSample words v = v := by
  subst h
  refine List.ext_getElem (by simp) fun i _ h2 => ?_
  simp [fitSample, h2]

theorem push_filled (size words : Nat) (r : Ring) (v : Sample) :
    (r.push size words v).filled = true ↔ r.filled = true ∨ (r.push size words v).w = 0 := by
  simp [Ring.push]

/-- Settles O59: a push as the laws of the ring give it. -/
theorem pushFillsSlot : Obligations.PushFillsSlot := by
  unfold Obligations.PushFillsSlot
  intro s v rest hb hi hv hp
  have hn := hp.ring.1
  refine ⟨s.ring.push s.cfg.ringN s.cfg.setWords v, ?_, ?_, fun slot hslot => ?_, ?_, push_filled _ _ _ _⟩
  · simp only [step, hb, hi]
    rfl
  · rw [read_push, if_pos rfl, fitSample_of_length hv]
  · rw [read_push, if_neg hslot]
  · exact push_w _ _ _ _ (by omega) hp.ring_le

end Sys2Proof.Machine

namespace Sys2Proof.Machine

/-! ### Fields of a register word -/

/-- A field that lies above the last part of a word is one of the rest. -/
theorem field_above {v w s l : Nat} {x : BitVec v} {y : BitVec w} {z : BitVec l} (hs : w ≤ s)
    (h : x.extractLsb' (s - w) l = z) : (x ++ y).extractLsb' s l = z :=
  (BitVec.extractLsb'_append_eq_of_le hs).trans h

/-- A bit that lies above the last part of a word is one of the rest. -/
theorem bit_above {v w s : Nat} {x : BitVec v} {y : BitVec w} {b : Bool} (hs : w ≤ s)
    (h : x.getLsbD (s - w) = b) : (x ++ y).getLsbD s = b := by
  rw [BitVec.getLsbD_append, if_neg (by omega), h]

/-- The last part of a word is its lowest field. -/
theorem field_last {v w : Nat} {x : BitVec v} {y : BitVec w} : (x ++ y).extractLsb' 0 w = y :=
  BitVec.extractLsb'_append_eq_right

theorem bit_last {v : Nat} {x : BitVec v} {b : Bool} : (x ++ BitVec.ofBool b).getLsbD 0 = b := by
  rw [BitVec.getLsbD_append, if_pos (by decide)]
  simp

/-- The fields of CTL (rule R22). -/
theorem ctlWord_fields (c : Ctx) :
    c.ctlWord.extractLsb' 0 2 = c.phase.code ∧ c.ctlWord.extractLsb' 2 4 = c.opi ∧
    c.ctlWord.extractLsb' 6 2 = c.fs.code ∧ c.ctlWord.extractLsb' 8 4 = c.status.code ∧
    c.ctlWord.getLsbD 12 = c.abort ∧ c.ctlWord.extractLsb' 13 2 = c.src.code ∧
    c.ctlWord.getLsbD 15 = c.needErase ∧ c.ctlWord.extractLsb' 16 3 = c.pend ∧ c.ctlWord.extractLsb' 19 13 = 0 := by
  unfold Ctx.ctlWord
  refine ⟨field_last, ?_, ?_, ?_, ?_, ?_, ?_, ?_, ?_⟩
  · iterate 1 refine field_above (by decide) ?_
    exact field_last
  · iterate 2 refine field_above (by decide) ?_
    exact field_last
  · iterate 3 refine field_above (by decide) ?_
    exact field_last
  · iterate 4 refine bit_above (by decide) ?_
    exact bit_last
  · iterate 5 refine field_above (by decide) ?_
    exact field_last
  · iterate 6 refine bit_above (by decide) ?_
    exact bit_last
  · iterate 7 refine field_above (by decide) ?_
    exact field_last
  · iterate 8 refine field_above (by decide) ?_
    exact BitVec.extractLsb'_eq_self

/-- The fields of a word of ARG (rule R22). -/
theorem argWordOf_fields (addr : BitVec 16) (dev : BitVec 2) (n : BitVec 8) :
    (argWordOf addr dev n).extractLsb' 0 16 = addr ∧ (argWordOf addr dev n).extractLsb' 16 2 = dev ∧
    (argWordOf addr dev n).extractLsb' 18 6 = 0 ∧ (argWordOf addr dev n).extractLsb' 24 8 = n := by
  unfold argWordOf
  exact ⟨field_last, field_above (by decide) field_last, field_above (by decide) (field_above (by decide) field_last),
    field_above (by decide) (field_above (by decide) (field_above (by decide) BitVec.extractLsb'_eq_self))⟩

/-- The fields of PROG (rule R22). -/
theorem progWord_fields (c : Ctx) : c.progWord.extractLsb' 0 12 = c.count ∧ c.progWord.extractLsb' 12 4 = 0 ∧
    c.progWord.extractLsb' 16 13 = c.nzero.setWidth 13 ∧ c.progWord.extractLsb' 29 3 = 0 := by
  unfold Ctx.progWord
  exact ⟨field_last, field_above (by decide) field_last, field_above (by decide) (field_above (by decide) field_last),
    field_above (by decide) (field_above (by decide) (field_above (by decide) BitVec.extractLsb'_eq_self))⟩

/-- The fields of ENGSTAT (rule R29). -/
theorem engstatWord_fields (sflt : Word) (prot lockV : Bool) (k : Task) :
    (engstatWord sflt prot lockV k).extractLsb' 0 5 = BitVec.ofNat 5 k.val ∧
    (engstatWord sflt prot lockV k).getLsbD 7 = lockV ∧ (engstatWord sflt prot lockV k).getLsbD 8 = prot ∧
    (engstatWord sflt prot lockV k).getLsbD 9 = softFault sflt ∧
    (engstatWord sflt prot lockV k).extractLsb' 5 2 = 0 ∧ (engstatWord sflt prot lockV k).extractLsb' 10 22 = 0 := by
  unfold engstatWord
  refine ⟨field_last, ?_, ?_, ?_, field_above (by decide) field_last, ?_⟩
  · iterate 2 refine bit_above (by decide) ?_
    exact bit_last
  · iterate 3 refine bit_above (by decide) ?_
    exact bit_last
  · iterate 4 refine bit_above (by decide) ?_
    exact bit_last
  · iterate 5 refine field_above (by decide) ?_
    exact BitVec.extractLsb'_eq_self

/-- The fields of RINGSTAT (rule R29). -/
theorem ringstatWord_fields (r : Ring) : (ringstatWord r).extractLsb' 0 16 = r.w.setWidth 16 ∧
    (ringstatWord r).getLsbD 16 = r.filled ∧ (ringstatWord r).extractLsb' 17 15 = 0 := by
  unfold ringstatWord
  exact ⟨field_last, bit_above (by decide) bit_last,
    field_above (by decide) (field_above (by decide) BitVec.extractLsb'_eq_self)⟩

end Sys2Proof.Machine

namespace Sys2Proof.Machine

/-! ### The register map -/

theorem hostWrite_word {off : Word} (v : Word) (s : State) (h : off.toNat % 4 = 0) :
    hostWrite .word off v s = .next (writeReg s v (regAt s.cfg off)) := by
  simp [hostWrite, accessRefusal, h]

theorem hostRead_word {off : Word} (s : State) (h : off.toNat % 4 = 0) :
    hostRead .word off s = .next { s with env := { s.env with hostData := readReg s (regAt s.cfg off) } } := by
  simp [hostRead, accessRefusal, h, State.setEnv]

/-- A register of a context, by its byte offset in the context's area. -/
def CtxReg.offset : CtxReg → Nat
  | .ctl => 0x000
  | .arg => 0x004
  | .rst => 0x008
  | .prog => 0x00C
  | .poll => 0x010
  | .val i => 0x100 + 4 * i.val
  | .dflt i => 0x200 + 4 * i.val
  | .buf i => 0x400 + 4 * i.val

theorem CtxReg.offset_lt (r : CtxReg) : r.offset < 0x600 := by
  cases r <;> simp only [CtxReg.offset] <;> omega

theorem CtxReg.offset_aligned (r : CtxReg) : r.offset % 4 = 0 := by
  cases r <;> simp only [CtxReg.offset] <;> omega

theorem arrayReg_of_lt {n : Nat} (make : Fin n → CtxReg) (i : Fin n) : arrayReg n make i.val = some (make i) := by
  simp [arrayReg]

/-- The map of a context's area, register by register. -/
theorem ctxRegAt_offset (r : CtxReg) : ctxRegAt (r.offset / 4) = some r := by
  have idx (b i : Nat) : (4 * b + 4 * i) / 4 = b + i := by omega
  cases r with
  | val i =>
    have hi := i.isLt
    rw [CtxReg.offset, show 0x100 + 4 * i.val = 4 * 0x40 + 4 * i.val by omega, idx, ctxRegAt]
    rw [if_neg (by omega), if_neg (by omega), if_neg (by omega), if_neg (by omega), if_neg (by omega),
      if_pos (by omega), Nat.add_sub_cancel_left, arrayReg_of_lt]
  | dflt i =>
    have hi := i.isLt
    rw [CtxReg.offset, show 0x200 + 4 * i.val = 4 * 0x80 + 4 * i.val by omega, idx, ctxRegAt]
    rw [if_neg (by omega), if_neg (by omega), if_neg (by omega), if_neg (by omega), if_neg (by omega),
      if_neg (by omega), if_pos (by omega), Nat.add_sub_cancel_left, arrayReg_of_lt]
  | buf i =>
    have hi := i.isLt
    rw [CtxReg.offset, show 0x400 + 4 * i.val = 4 * 0x100 + 4 * i.val by omega, idx, ctxRegAt]
    rw [if_neg (by omega), if_neg (by omega), if_neg (by omega), if_neg (by omega), if_neg (by omega),
      if_neg (by omega), if_neg (by omega), if_pos (by omega), Nat.add_sub_cancel_left, arrayReg_of_lt]
  | _ => rfl

theorem arrayReg_none {n i : Nat} (make : Fin n → CtxReg) (h : n ≤ i) : arrayReg n make i = none := by
  rw [arrayReg, dif_neg (by omega)]

/-- The gaps of a context's area (rule R22). -/
theorem ctxRegAt_gap {o : Nat}
    (h : ¬(o ≤ 0x010 ∨ 0x100 ≤ o ∧ o < 0x1F8 ∨ 0x200 ≤ o ∧ o < 0x2F8 ∨ 0x400 ≤ o ∧ o < 0x600))
    (h4 : o % 4 = 0) : ctxRegAt (o / 4) = none := by
  have hsmall : 4 < o / 4 := by omega
  rw [ctxRegAt, if_neg (by omega), if_neg (by omega), if_neg (by omega), if_neg (by omega), if_neg (by omega)]
  split
  · exact arrayReg_none _ (by omega)
  · split
    · exact arrayReg_none _ (by omega)
    · split
      · exact arrayReg_none _ (by omega)
      · rfl

/-- The map past the global registers: the context area. -/
theorem regAt_area {p : Params} {off : Word} (h : 0x018 < off.toNat) : regAt p off =
    if 0x1000 ≤ off.toNat ∧ off.toNat < 0x11000 ∧ (off.toNat - 0x1000) / 0x800 < p.reqW then
      ((ctxRegAt ((off.toNat - 0x1000) % 0x800 / 4)).map
        (.ctx (Fin.ofNat 32 ((off.toNat - 0x1000) / 0x800)))).getD .unmapped
    else .unmapped := by
  simp only [regAt]
  rw [if_neg (by omega), if_neg (by omega), if_neg (by omega), if_neg (by omega), if_neg (by omega),
    if_neg (by omega), if_neg (by omega)]
  refine if_congr Iff.rfl ?_ rfl
  cases ctxRegAt ((off.toNat - 0x1000) % 0x800 / 4) <;> rfl

/-- The register of context `k` at its offset. -/
theorem regAt_ctx {p : Params} {off : Word} (k : Task) (r : CtxReg) (hk : k.val < p.reqW)
    (h : off.toNat = 0x1000 + 0x800 * k.val + r.offset) : regAt p off = .ctx k r := by
  have hr := r.offset_lt
  have hk' := k.isLt
  have hdiv : (off.toNat - 0x1000) / 0x800 = k.val := by omega
  have hmod : (off.toNat - 0x1000) % 0x800 = r.offset := by omega
  rw [regAt_area (by omega), hdiv, hmod, if_pos ⟨by omega, by omega, hk⟩, ctxRegAt_offset]
  simp

theorem regAt_unmapped {p : Params} {off : Word} (h4 : off.toNat % 4 = 0) (h : ¬(off.toNat ≤ 0x018 ∨
      0x1000 ≤ off.toNat ∧ off.toNat < 0x11000 ∧ (off.toNat - 0x1000) / 0x800 < p.reqW ∧
        ((off.toNat - 0x1000) % 0x800 ≤ 0x010 ∨
          0x100 ≤ (off.toNat - 0x1000) % 0x800 ∧ (off.toNat - 0x1000) % 0x800 < 0x1F8 ∨
          0x200 ≤ (off.toNat - 0x1000) % 0x800 ∧ (off.toNat - 0x1000) % 0x800 < 0x2F8 ∨
          0x400 ≤ (off.toNat - 0x1000) % 0x800 ∧ (off.toNat - 0x1000) % 0x800 < 0x600))) :
    regAt p off = .unmapped := by
  rw [not_or] at h
  rw [regAt_area (by omega)]
  split
  · rename_i harea
    rw [ctxRegAt_gap (fun hr => h.2 ⟨harea.1, harea.2.1, harea.2.2, hr⟩) (by omega)]
    rfl
  · rfl

/-- A write to a register of context `k`. -/
theorem hostWrite_ctx {off : Word} (v : Word) (s : State) (k : Task) (r : CtxReg) (hk : k.val < s.cfg.reqW)
    (h : off.toNat = 0x1000 + 0x800 * k.val + r.offset) : hostWrite .word off v s =
      .next { s with ctx := s.ctx.set k.val (writeCtxReg s.cfg (s.ctxAt k) v r) } := by
  have hr := r.offset_aligned
  rw [hostWrite_word v s (by omega), regAt_ctx k r hk h]
  rfl

/-- A read of a register of context `k`. -/
theorem hostRead_ctx {off : Word} (s : State) (k : Task) (r : CtxReg) (hk : k.val < s.cfg.reqW)
    (h : off.toNat = 0x1000 + 0x800 * k.val + r.offset) : hostRead .word off s =
      .next { s with env := { s.env with hostData := readCtxReg (s.ctxAt k) r } } := by
  have hr := r.offset_aligned
  rw [hostRead_word s (by omega), regAt_ctx k r hk h]
  rfl

/-! ### Who owns what -/

/-- A write to a context register changes fields of the host alone, and ABORT only from 0 to 1 (rules R22, R34). -/
theorem writeCtxReg_owned (p : Params) (c : Ctx) (v : Word) (r : CtxReg) :
    ∃ abort addr dev n rstart val dflt buf,
      writeCtxReg p c v r = { c with
        abort := abort, addr := addr, dev := dev, n := n, rstart := rstart, val := val, dflt := dflt, buf := buf } ∧
      (c.abort = true → abort = true) := by
  cases r
  case ctl => exact ⟨_, _, _, _, _, _, _, _, rfl, fun h => by rw [h, Bool.true_or]⟩
  all_goals exact ⟨_, _, _, _, _, _, _, _, rfl, id⟩

/-- A write changes REQ, SFLT and the contexts alone, and of a context the host's fields alone. -/
theorem writeReg_owned (s : State) (v : Word) (r : Reg) : ∃ req sflt ctx,
    writeReg s v r = { s with req := req, sflt := sflt, ctx := ctx } ∧
    ∀ k : Task, ∃ abort addr dev n rstart val dflt buf,
      ctx.get k = { s.ctxAt k with
        abort := abort, addr := addr, dev := dev, n := n, rstart := rstart, val := val, dflt := dflt, buf := buf } ∧
      ((s.ctxAt k).abort = true → abort = true) := by
  cases r with
  | ctx j r =>
    refine ⟨s.req, s.sflt, _, rfl, fun k => ?_⟩
    show ∃ abort addr dev n rstart val dflt buf, (s.modCtx j fun c => writeCtxReg s.cfg c v r).ctxAt k = _ ∧ _
    rw [ctxAt_modCtx]
    split
    · subst k; exact writeCtxReg_owned _ _ v r
    · exact ⟨_, _, _, _, _, _, _, _, rfl, id⟩
  | _ => exact ⟨_, _, _, rfl, fun k => ⟨_, _, _, _, _, _, _, _, rfl, id⟩⟩

/-- Settles O56: refusals, ownership, the gaps of the map and the registers of a context. -/
theorem hostAccessOwnership : Obligations.HostAccessOwnership := by
  unfold Obligations.HostAccessOwnership
  intro s width off v
  refine ⟨fun hw => ?_, fun hw h4 => ?_, fun hw h4 => ?_, fun o hw h4 ho hun => ?_, fun k o c hw hk hoff hc => ?_⟩
  · simp [hostWrite, hostRead, accessRefusal, hw]
  · simp [hostWrite, hostRead, accessRefusal, hw, h4]
  · subst hw
    rw [hostRead_word s h4, hostWrite_word v s h4]
    obtain ⟨req, sflt, ctx, hwr, hctx⟩ := writeReg_owned s v (regAt s.cfg off)
    exact ⟨⟨_, rfl⟩, req, sflt, ctx, congrArg _ hwr, hctx⟩
  · subst hw
    rw [ho] at hun
    rw [hostRead_word s h4, hostWrite_word v s h4, regAt_unmapped h4 hun]
    exact ⟨rfl, rfl⟩
  · subst hw
    have write (r : CtxReg) (ho : o = r.offset) (hcr : c = writeCtxReg s.cfg (s.ctxAt k) v r) :
        hostWrite .word off v s = .next { s with ctx := s.ctx.set k.val c } := by
      rw [hcr]; exact hostWrite_ctx v s k r hk (by rw [hoff, ho])
    rcases hc with ⟨ho, hc⟩ | ⟨ho, hc⟩ | ⟨ho, hc⟩ | ⟨ho, hc⟩ | ⟨ho, hc⟩ |
      ⟨i, ho, hc⟩ | ⟨i, ho, hc⟩ | ⟨i, ho, hc⟩
    · exact write .ctl ho hc
    · exact write .arg ho hc
    · exact write .rst ho hc
    · exact write .prog ho hc
    · exact write .poll ho hc
    · exact write (.val i) ho hc
    · exact write (.dflt i) ho hc
    · exact write (.buf i) ho hc

end Sys2Proof.Machine

namespace Sys2Proof.Machine

/-! ### The global registers -/

/-- A write to the global register `r` at its offset. -/
theorem hostWrite_global {off : Word} {r : Reg} (v : Word) (s : State) (hr : regAt s.cfg off = r)
    (h4 : off.toNat % 4 = 0) : hostWrite .word off v s = .next (writeReg s v r) := by
  rw [hostWrite_word v s h4, hr]

/-- A read of the global register `r` at its offset. -/
theorem hostRead_global {off : Word} {r : Reg} (s : State) (hr : regAt s.cfg off = r) (h4 : off.toNat % 4 = 0) :
    hostRead .word off s = .next { s with env := { s.env with hostData := readReg s r } } := by
  rw [hostRead_word s h4, hr]

/-- The mask keeps the REQ_W bits that exist (rule R23). -/
theorem bitAt_reqMask (p : Params) (v : Word) (k : Task) :
    bitAt (v &&& p.reqMask) k = (bitAt v k && decide (k.val < p.reqW)) := by
  simp only [bitAt, BitVec.getLsbD_and, getLsbD_reqMask, k.isLt, decide_true, Bool.true_and]

theorem bitAt_reqSet (p : Params) (req v : Word) (k : Task) :
    bitAt (req ||| (v &&& p.reqMask)) k = (bitAt req k || bitAt v k && decide (k.val < p.reqW)) := by
  rw [← bitAt_reqMask]
  exact BitVec.getLsbD_or

/-- SOFT_FAULT is raised exactly where a bit of SFLT is (rule R26). -/
theorem softFault_iff (sflt : Word) : softFault sflt = true ↔ ∃ k, bitAt sflt k = true := by
  have hzero : sflt = 0 ↔ ∀ k, bitAt sflt k = false :=
    ⟨fun h k => by simp [h, bitAt], fun h => word_ext fun k => by rw [h k]; simp [bitAt]⟩
  rw [softFault, bne_iff_ne, ne_eq, hzero]
  simp

/-- Settles O57: the map's global offsets, one by one. -/
theorem globalRegisters : Obligations.GlobalRegisters := by
  unfold Obligations.GlobalRegisters
  intro s v
  refine ⟨⟨_, hostWrite_global (r := .reqSet) v s rfl (by decide), bitAt_reqSet s.cfg s.req v⟩,
    hostWrite_global (r := .reqClr) v s rfl (by decide), hostWrite_global (r := .sflt) v s rfl (by decide),
    ?_, ?_, ?_, ?_⟩
  · intro off h
    simp only [List.mem_cons, List.not_mem_nil, or_false] at h
    rcases h with rfl | rfl | rfl | rfl
    · exact hostWrite_global (r := .req) v s rfl (by decide)
    · exact hostWrite_global (r := .ack) v s rfl (by decide)
    · exact hostWrite_global (r := .engstat) v s rfl (by decide)
    · exact hostWrite_global (r := .ringstat) v s rfl (by decide)
  · intro off d h
    simp only [List.mem_cons, List.not_mem_nil, or_false, Prod.mk.injEq] at h
    rcases h with ⟨rfl, rfl⟩ | ⟨rfl, rfl⟩ | ⟨rfl, rfl⟩ | ⟨rfl, rfl⟩ | ⟨rfl, rfl⟩
    · exact hostRead_global (r := .req) s rfl (by decide)
    · exact hostRead_global (r := .reqSet) s rfl (by decide)
    · exact hostRead_global (r := .reqClr) s rfl (by decide)
    · exact hostRead_global (r := .ack) s rfl (by decide)
    · exact hostRead_global (r := .sflt) s rfl (by decide)
  · obtain ⟨hk, hv, hp, hf, h5, h10⟩ := engstatWord_fields s.sflt s.prot s.lockV s.lockK
    refine ⟨_, hostRead_global (r := .engstat) s rfl (by decide), ?_, hv, hp, hf ▸ softFault_iff s.sflt, h5, h10⟩
    rw [readReg, hk, BitVec.toNat_ofNat, Nat.mod_eq_of_lt s.lockK.isLt]
  · obtain ⟨hw, hf, h0⟩ := ringstatWord_fields s.ring
    refine ⟨_, hostRead_global (r := .ringstat) s rfl (by decide), ?_, hf, h0⟩
    rw [readReg, hw, BitVec.toNat_setWidth]

/-! ### The lines of a host script (rules R108, R109) -/

theorem requestWord_masked (p : Params) (k : Task) (hk : k.val < p.reqW) :
    requestWord k &&& p.reqMask = requestWord k := by
  refine word_ext fun j => ?_
  rw [bitAt_reqMask, bitAt_requestWord]
  by_cases hj : j = k <;> simp [hj, hk]

theorem act_scriptSet (s : State) (k : Task) (hk : k.val < s.cfg.reqW) :
    act (scriptSet k) s = .next { s with req := s.req ||| requestWord k } := by
  rw [scriptSet, act, hostWrite_global (r := .reqSet) _ s rfl (by decide), writeReg, requestWord_masked s.cfg k hk]
  rfl

/-- The offset of a context register is an offset of the map. -/
theorem ctxOffset_toNat (k : Task) (r : CtxReg) : (ctxOffset k r.offset).toNat = 0x1000 + 0x800 * k.val + r.offset := by
  have hr := r.offset_lt
  have hk := k.isLt
  rw [ctxOffset, BitVec.toNat_ofNat, Nat.mod_eq_of_lt (by omega)]

/-- A script line that writes a context register. -/
theorem act_write_ctx (s : State) (k : Task) (r : CtxReg) (v : Word) (hk : k.val < s.cfg.reqW) :
    act (.hostWrite .word (ctxOffset k r.offset) v) s =
      .next { s with ctx := s.ctx.set k.val (writeCtxReg s.cfg (s.ctxAt k) v r) } :=
  hostWrite_ctx v s k r hk (ctxOffset_toNat k r)

/-- A script line that reads a context register. -/
theorem act_read_ctx (s : State) (k : Task) (r : CtxReg) (hk : k.val < s.cfg.reqW) :
    act (.hostRead .word (ctxOffset k r.offset)) s =
      .next { s with env := { s.env with hostData := readCtxReg (s.ctxAt k) r } } :=
  hostRead_ctx s k r hk (ctxOffset_toNat k r)

/-- The line that writes ARG writes its three fields. -/
theorem act_scriptArg (s : State) (k : Task) (hk : k.val < s.cfg.reqW) (addr : BitVec 16) (dev : BitVec 2)
    (n : BitVec 8) : act (scriptArg k addr dev n) s =
      .next { s with ctx := s.ctx.set k.val { s.ctxAt k with addr := addr, dev := dev, n := n } } := by
  obtain ⟨ha, hd, -, hn⟩ := argWordOf_fields addr dev n
  have h := act_write_ctx s k .arg (argWordOf addr dev n) hk
  rw [writeCtxReg, ha, hd, hn] at h
  exact h

/-- The ARG words that a request of ADDR, DEV and N writes, field by field. -/
theorem scriptWrites_arg (k : Task) (addr : BitVec 16) (dev : BitVec 2) (n : BitVec 8) :
    scriptWrites k 0 [.addr addr, .dev dev, .n n] =
      [scriptArg k addr 0 0, scriptArg k addr dev 0, scriptArg k addr dev n] := by
  have h1 : FieldWrite.argAfter (.addr addr) 0 = argWordOf addr 0 0 := rfl
  have h2 : FieldWrite.argAfter (.dev dev) (argWordOf addr 0 0) = argWordOf addr dev 0 := by
    obtain ⟨ha, -, -, hn⟩ := argWordOf_fields addr 0 0
    rw [FieldWrite.argAfter, ha, hn]
  have h3 : FieldWrite.argAfter (.n n) (argWordOf addr dev 0) = argWordOf addr dev n := by
    obtain ⟨ha, hd, -, -⟩ := argWordOf_fields addr dev 0
    rw [FieldWrite.argAfter, ha, hd]
  simp only [scriptWrites, scriptWrite, scriptArg, h1, h2, h3]

/-- A request that gives ADDR, DEV and N leaves just these in the context, and raises its bit. -/
theorem runScript_scriptRequest (s : State) (k : Task) (hk : k.val < s.cfg.reqW) (addr : BitVec 16) (dev : BitVec 2)
    (n : BitVec 8) : runScript (scriptRequest k [.addr addr, .dev dev, .n n]) s = .next { s with
      req := s.req ||| requestWord k
      ctx := s.ctx.set k.val { s.ctxAt k with addr := addr, dev := dev, n := n } } := by
  rw [scriptRequest, scriptWrites_arg]
  simp only [List.cons_append, List.nil_append, runScript, act_scriptArg, act_scriptSet, hk, ctxAt_withCtx,
    Vector.set_set]

/-- Settles O58: each line is one write or read of the register its row names. -/
theorem scriptLinesWriteTheirField : Obligations.ScriptLinesWriteTheirField := by
  unfold Obligations.ScriptLinesWriteTheirField
  intro s k hk
  refine ⟨act_scriptSet s k hk, hostWrite_global (off := 0x008) (r := .reqClr) (requestWord k) s rfl (by decide),
    hostWrite_global (off := 0x010) (r := .sflt) (requestWord k) s rfl (by decide), ?_, act_scriptArg s k hk, ?_, ?_, ?_,
    runScript_scriptRequest s k hk, ?_, fun i v => act_write_ctx s k (.val i) v hk,
    fun i v => act_write_ctx s k (.dflt i) v hk, ?_, fun i => act_read_ctx s k (.val i) hk,
    fun i => act_read_ctx s k (.dflt i) hk, fun i => act_read_ctx s k (.buf i) hk, act_read_ctx s k .rst hk,
    act_read_ctx s k .poll hk, ?_, ?_, ?_⟩
  · have h := act_write_ctx s k .ctl 0x1000 hk
    rw [writeCtxReg, show (0x1000 : Word).getLsbD 12 = true from rfl, Bool.or_true] at h
    exact h
  · intro arg addr
    exact act_scriptArg s k hk addr (arg.extractLsb' 16 2) (arg.extractLsb' 24 8)
  · intro arg dev
    exact act_scriptArg s k hk (arg.extractLsb' 0 16) dev (arg.extractLsb' 24 8)
  · intro arg n
    exact act_scriptArg s k hk (arg.extractLsb' 0 16) (arg.extractLsb' 16 2) n
  · intro rstart hr
    have h := act_write_ctx s k .rst rstart hk
    rw [writeCtxReg, Nat.mod_eq_of_lt hr, BitVec.ofNat_toNat, BitVec.setWidth_eq] at h
    exact h
  · intro i v
    have h := act_write_ctx s k (.buf i) (0#16 ++ v) hk
    rw [writeCtxReg, field_last] at h
    exact h
  · obtain ⟨ha, hd, h0, hn⟩ := argWordOf_fields (s.ctxAt k).addr (s.ctxAt k).dev (s.ctxAt k).n
    exact ⟨_, act_read_ctx s k .arg hk, ha, hd, h0, hn⟩
  · obtain ⟨hc, h12, hz, h29⟩ := progWord_fields (s.ctxAt k)
    refine ⟨_, act_read_ctx s k .prog hk, hc, h12, ?_, h29⟩
    rw [readCtxReg, hz, BitVec.toNat_setWidth]
  · exact ⟨_, act_read_ctx s k .ctl hk, ctlWord_fields (s.ctxAt k)⟩

end Sys2Proof.Machine

namespace Sys2Proof.Machine

/-! ### BUSY and OP of the Flash under a frame -/

theorem flashAfter_busy_op (p : Params) (op : FlashOp) (f : Flash) :
    ((flashAfter p op f).busy = f.busy ∧ (flashAfter p op f).op = f.op) ∨
      ((flashAfter p op f).busy = true ∧ (flashAfter p op f).op = some op) := by
  simp only [flashAfter]
  split
  · exact .inl ⟨rfl, rfl⟩
  · split
    · exact .inl ⟨rfl, rfl⟩
    · exact .inr ⟨rfl, rfl⟩

theorem flashProtected_busy_op (b : Bool) (f : Flash) :
    (flashProtected b f).busy = f.busy ∧ (flashProtected b f).op = f.op := by
  simp only [flashProtected]
  split <;> exact ⟨rfl, rfl⟩

/-- A frame keeps BUSY and OP, or is a program or an erase and the Flash becomes busy with it (rules R121-R128). -/
theorem transact_busy_op (i : Instr) (s : State) :
    ((transact i s).flash.busy = s.flash.busy ∧ (transact i s).flash.op = s.flash.op) ∨
      ∃ op, flashTarget s.cfg i = some op ∧ (transact i s).flash.busy = true ∧ (transact i s).flash.op = some op := by
  cases i
  case flWren => rw [flWren_flash]; split <;> exact .inl ⟨rfl, rfl⟩
  case flPp p words =>
    rw [flPp_flash]
    split
    · exact (flashAfter_busy_op _ _ _).imp_right fun h => ⟨_, rfl, h⟩
    · exact .inl ⟨rfl, rfl⟩
  case flSe p => rw [flSe_flash]; exact (flashAfter_busy_op _ _ _).imp_right fun h => ⟨_, rfl, h⟩
  case flBe p => rw [flBe_flash]; exact (flashAfter_busy_op _ _ _).imp_right fun h => ⟨_, rfl, h⟩
  case flUlbpr => rw [flUlbpr_flash]; exact .inl (flashProtected_busy_op _ _)
  case flProtect data => rw [flProtect_flash]; exact .inl (flashProtected_busy_op _ _)
  case flRead a n => rw [flRead_flash]; exact .inl ⟨rfl, rfl⟩
  case frWren d => rw [frWren_flash]; exact .inl ⟨rfl, rfl⟩
  case frWrite d a bytes => rw [frWrite_flash]; exact .inl ⟨rfl, rfl⟩
  case frRead d a n => rw [frRead_flash]; exact .inl ⟨rfl, rfl⟩
  all_goals exact .inl ⟨rfl, rfl⟩

/-- Only a program or an erase makes the Flash busy (rules R123-R125). -/
theorem transact_busy (i : Instr) (s : State) (h : flashTarget s.cfg i = none) :
    (transact i s).flash.busy = s.flash.busy := by
  rcases transact_busy_op i s with ⟨hb, -⟩ | ⟨op, ho, -⟩
  · exact hb
  · simp [h] at ho

theorem flashOk_congr {s t : State} (h : t.flash = s.flash) (hs : s.FlashOk) : t.FlashOk := by
  rw [State.FlashOk, h]
  exact hs

theorem flashOk_transact (i : Instr) (s : State) (h : s.FlashOk) : (transact i s).FlashOk := by
  rcases transact_busy_op i s with ⟨hb, ho⟩ | ⟨op, -, hb, ho⟩ <;> rw [State.FlashOk, hb, ho]
  · exact h
  · rfl

theorem SliceSends.flashOk {k : Task} {s t : State} (h : SliceSends k s t) (hs : s.FlashOk) : t.FlashOk := by
  rcases h with h | ⟨i, u, hu, ht⟩
  · exact flashOk_congr h.flash hs
  · exact flashOk_congr ht.flash (flashOk_transact i u (flashOk_congr hu.flash hs))

/-! ### An op boundary sends no command -/

theorem startOp_busy (k : Task) (op : DeviceOp) (s : State) : (startOp k op s).flash.busy = s.flash.busy := by
  cases op with
  | fram d a n => exact transact_busy (.frWren d) s rfl
  | none => rfl
  | prog | se | be | protect | unlock => exact transact_busy .flWren s rfl

theorem copyFrame_target (q p : Params) (c : TaskCfg) (d : Dev) (second : Bool) :
    flashTarget q (copyFrame p c d second) = none := by
  cases d <;> rfl

theorem readFrame_target (q p : Params) (c : Ctx) (d : Dev) : flashTarget q (readFrame p c d) = none := by
  cases d <;> rfl

theorem captureBoundary_busy (k : Task) (s : State) : (captureBoundary k s).flash.busy = s.flash.busy := by
  simp only [captureBoundary]
  split
  · rfl
  · split
    · exact startOp_busy k (.se _) _
    · exact startOp_busy k (.prog _ _) _

theorem recordReadStep_busy (k : Task) (s : State) : (recordReadStep k s).flash.busy = s.flash.busy := by
  simp only [recordReadStep]
  split
  · rfl
  · have hread := transact_busy _ s (copyFrame_target s.cfg s.cfg (s.taskCfg k) ‹Dev› ((s.ctxAt k).opi != 0))
    split
    · rw [acceptRecord, (taskOnly_finish k _ _).flash]; exact hread
    · split
      · rw [defaultRead, (taskOnly_finish k _ _).flash]; exact hread
      · exact hread

theorem calWriteBoundary_busy (k : Task) (s : State) : (calWriteBoundary k s).flash.busy = s.flash.busy := by
  rw [calWriteBoundary]
  split
  · rw [(taskOnly_finish k _ s).flash]
  · exact startOp_busy k _ s

theorem readStep_busy (k : Task) (s : State) : (readStep k s).flash.busy = s.flash.busy := by
  simp only [readStep]
  split
  · rfl
  · rw [(taskOnly_finish k _ _).flash]
    exact transact_busy _ s (readFrame_target _ _ _ _)

/-- No class makes the Flash busy at an op boundary: it sends a write enable or a read (rules R150, R158, R175, R233). -/
theorem boundary_busy (k : Task) (cls : OpClass) (s : State) :
    ((classRule k cls).boundary s).flash.busy = s.flash.busy := by
  cases cls with
  | capture => exact captureBoundary_busy k s
  | rrRead => exact recordReadStep_busy k s
  | calWrite => exact calWriteBoundary_busy k s
  | read => exact readStep_busy k s
  | unassigned => rfl
  | rrWrite | calUnlock | pageWrite | eraseSector | eraseBlock | framWrite => exact startOp_busy k _ s

/-! ### Where a slice leaves LOCK and the Flash -/

/-- Task `k` runs and holds LOCK. -/
structure Holds (k : Task) (s : State) : Prop where
  lockV : s.lockV = true
  lockK : s.lockK = k
  phase : (s.ctxAt k).phase = .run

/-- Task `k` is at an op boundary with LOCK free and the Flash idle, or inside a device operation with LOCK, where a busy
Flash is polled. -/
inductive Parked (k : Task) (s : State) : Prop
  | free (hv : s.lockV = false) (hf : (s.ctxAt k).fs = .boundary) (hb : s.flash.busy = false)
  | inside (h : Holds k s) (hf : (s.ctxAt k).fs ≠ .boundary) (hb : s.flash.busy = true → (s.ctxAt k).fs = .issued)

/-- Every other task at its op boundary, a parked task decides LOCK and what the Flash is busy for. -/
theorem Parked.lockOk_flashHeld {k : Task} {s : State} (h : Parked k s)
    (hother : ∀ j, j ≠ k → (s.ctxAt j).fs = .boundary) : s.LockOk ∧ s.FlashHeld := by
  have only (j : Task) (hj : (s.ctxAt j).fs ≠ .boundary) : j = k := by
    by_contra hne
    exact hj (hother j hne)
  cases h with
  | free hv hf hb =>
    refine ⟨⟨fun h => by simp [hv] at h, fun j hj => ?_⟩, fun h => by simp [hb] at h⟩
    exact absurd hf (only j hj ▸ hj)
  | inside h hf hb =>
    obtain ⟨hv, rfl, hp⟩ := h
    exact ⟨⟨fun _ => ⟨hp, hf⟩, fun j hj => ⟨hv, (only j hj).symm⟩⟩, fun h => ⟨hv, hb h⟩⟩

theorem Ends.atBoundary {k : Task} {s t : State} (h : Ends k s t) :
    t.lockV = s.lockV ∧ (t.ctxAt k).fs = .boundary := by
  rcases h with ⟨st, rfl⟩ | rfl | rfl
  · exact ⟨(taskOnly_finish k st s).lockV, by rw [ctxAt_finish, if_pos rfl]; rfl⟩
  · exact ⟨rfl, by rw [ctxAt_retire, if_pos rfl]; rfl⟩
  · exact ⟨rfl, by rw [ctxAt_withdraw, if_pos rfl]; rfl⟩

/-- A frame of the LOCK holder after which it polls. -/
theorem issued_parked {k : Task} {s : State} (i : Instr) (h : Holds k s) : Parked k ((transact i s).setFs k .issued) := by
  obtain ⟨hv, hk, hp⟩ := h
  exact .inside ⟨by simp [State.setFs, hv], by simp [State.setFs, hk], by simp [State.setFs, hp]⟩
    (by simp [State.setFs]) fun _ => by simp [State.setFs]

/-- Without a limit a poll of a busy Flash counts itself and waits (rule R153). -/
theorem pollStep_waits (k : Task) (r : ClassRule) (s : State) (hb : s.flash.busy = true)
    (hlimit : s.cfg.busyPollLimit = none) :
    pollStep k r s = (transact .flRdsr s).modCtx k fun c => { c with polls := nextPolls c.polls } := by
  rw [pollStep, transact_rdsr_busy, if_pos hb]
  exact pollLimit_none k _ (by rw [modCtx_cfg, transact_cfg, hlimit])

section holder
variable {k : Task} {cls : OpClass} {r : ClassRule}

theorem opComplete_parked (hr : r.Orderly k cls) (s : State) (hv : s.lockV = false) (hf : (s.ctxAt k).fs = .boundary)
    (hb : s.flash.busy = false) : Parked k (opComplete k r s) := by
  have hc := hr.commit s
  have hflash : (opComplete k r s).flash.busy = false := by rw [(onlyTask_opComplete hr s).flash, hb]
  rcases opComplete_ends k r s with h | h
  · rw [h] at hflash ⊢
    exact .free (hc.lockV.trans hv) (hc.fs.trans hf) hflash
  · obtain ⟨hv', hf'⟩ := h.atBoundary
    exact .free (hv'.trans (hc.lockV.trans hv)) hf' hflash

/-- A device operation that ends on an idle Flash (rules R152, R153, R158). -/
theorem endOp_parked (hr : r.Orderly k cls) (s : State) (hb : s.flash.busy = false) : Parked k (endOp k r s) :=
  opComplete_parked hr _ rfl (by simp [State.setFs]) hb

/-- A poll waits on a busy Flash and ends the operation on an idle one (rule R153). -/
theorem pollStep_parked (hr : r.Orderly k cls) (s : State) (hlimit : s.cfg.busyPollLimit = none) (h : Holds k s)
    (hf : (s.ctxAt k).fs = .issued) : Parked k (pollStep k r s) := by
  cases hb : s.flash.busy with
  | true =>
    obtain ⟨hv, hk, hp⟩ := h
    rw [pollStep_waits k r s hb hlimit]
    exact .inside ⟨by simp [hv], by simp [hk], by simp [hp]⟩ (by simp [hf]) fun _ => by simp [hf]
  | false =>
    rw [pollStep, transact_rdsr_busy, if_neg (by simp [hb])]
    exact endOp_parked hr _ (by simp [hb])

/-- A command on an idle Flash: an erase or a program is polled from now on, every other command ends the operation at
once (rules R151, R152, R158). -/
theorem commandStep_parked (hr : r.Orderly k cls) (s : State) (h : Holds k s) (hb : s.flash.busy = false) :
    Parked k (commandStep k r s) := by
  have data (n : Nat) : (r.data n s).1.flash.busy = false := by rw [(hr.data n s).flash, hb]
  have ended (i : Instr) (u : State) (hu : u.flash.busy = false) (hi : flashTarget u.cfg i = none) :
      Parked k (endOp k r (transact i u)) := endOp_parked hr _ (by rw [transact_busy i u hi, hu])
  cases ho : (s.ctxAt k).op with
  | prog p n =>
    have hd := hr.data n s
    rw [commandStep_prog k r s p n ho]
    exact issued_parked _ ⟨hd.lockV.trans h.lockV, hd.lockK.trans h.lockK, hd.phase.trans h.phase⟩
  | se p => rw [commandStep_se k r s p ho]; exact issued_parked _ h
  | be p => rw [commandStep_be k r s p ho]; exact issued_parked _ h
  | protect => rw [commandStep_protect k r s ho]; exact ended _ s hb rfl
  | unlock => rw [commandStep_unlock k r s ho]; exact ended _ s hb rfl
  | fram d a n => rw [commandStep_fram k r s d a n ho]; exact ended _ _ (data n) rfl
  | none => rw [commandStep_none k r s ho]; exact endOp_parked hr s hb

end holder

/-- A slice of a task at its op boundary leaves an idle Flash idle. -/
theorem slice_boundary_busy (k : Task) (cls : OpClass) (s : State) (hf : (s.ctxAt k).fs = .boundary) :
    (slice k (classRule k cls) s).flash.busy = s.flash.busy := by
  have run (u : State) (hu : (u.ctxAt k).fs = .boundary) :
      (runTask k (classRule k cls) u).flash.busy = u.flash.busy := by
    rw [runTask, if_pos hu, boundary_busy]
  cases hp : (s.ctxAt k).phase with
  | finish => rw [slice_finish k _ s hp]; rfl
  | run => rw [slice_run k _ s hp, run s hf]
  | idle =>
    have hstart := (orderly_classRule k cls).start (beginTask k s)
    have hflash : ((classRule k cls).start (beginTask k s)).flash.busy = s.flash.busy := by rw [hstart.flash]; rfl
    rw [slice_idle k _ s hp]
    split
    · rw [run _ (hstart.fs.trans (by rw [ctxAt_beginTask]; rfl)), hflash]
    · rw [(taskOnly_finish k _ _).flash, hflash]

/-! ### The premises of a busy Flash, from step to step -/

/-- No poll limit, no frame but the engine's own, and the invariants that rule R159 rests on. -/
structure State.FlashOwned (s : State) : Prop where
  noLimit : s.cfg.busyPollLimit = none
  bus     : s.port.bus = none
  lock    : s.LockOk
  flash   : s.FlashOk
  held    : s.FlashHeld

/-- From `s` to `t` the build, the wire, LOCK and the Flash stand, and each task keeps its position or, if it does not hold
LOCK, goes to rest. -/
structure HolderStands (s t : State) : Prop where
  cfg   : t.cfg = s.cfg
  bus   : t.port.bus = s.port.bus
  lockV : t.lockV = s.lockV
  lockK : t.lockK = s.lockK
  flash : t.flash = s.flash
  moved : ∀ j, (t.ctxAt j).position = (s.ctxAt j).position ∨ s.holdsLock j = false ∧ (t.ctxAt j).AtRest

theorem HolderStands.trans {s t u : State} (h : HolderStands s t) (h' : HolderStands t u) : HolderStands s u := by
  refine ⟨h'.cfg.trans h.cfg, h'.bus.trans h.bus, h'.lockV.trans h.lockV, h'.lockK.trans h.lockK,
    h'.flash.trans h.flash, fun j => ?_⟩
  have hlock : t.holdsLock j = s.holdsLock j := by rw [State.holdsLock, State.holdsLock, h.lockV, h.lockK]
  rcases h'.moved j with hp' | ⟨hn, hr⟩
  · rcases h.moved j with hp | ⟨hn, hr⟩
    · exact .inl (hp'.trans hp)
    · simp only [Ctx.position, Prod.mk.injEq] at hp'
      obtain ⟨hphase, hfs, -⟩ := hp'
      exact .inr ⟨hn, hphase.trans hr.1, hfs.trans hr.2⟩
  · exact .inr ⟨hlock ▸ hn, hr⟩

/-- LOCK and the contexts stand. -/
theorem holderStands_of_same {s t : State} (hc : t.cfg = s.cfg) (hbus : t.port.bus = s.port.bus)
    (hv : t.lockV = s.lockV) (hk : t.lockK = s.lockK) (hflash : t.flash = s.flash) (hctx : t.ctx = s.ctx) :
    HolderStands s t :=
  ⟨hc, hbus, hv, hk, hflash, fun j => .inl (by rw [ctxAt_congr hctx])⟩

theorem TaskOnly.holderStands {s t : State} (h : TaskOnly s t)
    (hm : ∀ j, (t.ctxAt j).position = (s.ctxAt j).position ∨ s.holdsLock j = false ∧ (t.ctxAt j).AtRest) :
    HolderStands s t :=
  ⟨h.cfg, by rw [h.port], h.lockV, h.lockK, h.flash, hm⟩

/-- The holder itself keeps its position. -/
theorem HolderStands.holder {s t : State} (h : HolderStands s t) (hv : s.lockV = true) :
    (t.ctxAt s.lockK).phase = (s.ctxAt s.lockK).phase ∧ (t.ctxAt s.lockK).fs = (s.ctxAt s.lockK).fs := by
  rcases h.moved s.lockK with hp | ⟨hn, -⟩
  · simp only [Ctx.position, Prod.mk.injEq] at hp
    exact ⟨hp.1, hp.2.1⟩
  · simp [State.holdsLock, hv] at hn

theorem HolderStands.lockOk {s t : State} (h : HolderStands s t) (hl : s.LockOk) : t.LockOk := by
  refine ⟨fun hv => ?_, fun j hj => ?_⟩
  · rw [h.lockV] at hv
    obtain ⟨hp, hf⟩ := h.holder hv
    rw [h.lockK, hp, hf]
    exact hl.1 hv
  · rw [h.lockV, h.lockK]
    rcases h.moved j with hp | ⟨-, -, hb⟩
    · simp only [Ctx.position, Prod.mk.injEq] at hp
      exact hl.2 j (hp.2.1 ▸ hj)
    · exact absurd hb hj

theorem HolderStands.flashHeld {s t : State} (h : HolderStands s t) (hs : s.FlashHeld) : t.FlashHeld := by
  intro hb
  rw [h.flash] at hb
  obtain ⟨hv, hf⟩ := hs hb
  rw [h.lockV, h.lockK, (h.holder hv).2]
  exact ⟨hv, hf⟩

theorem HolderStands.owned {s t : State} (h : HolderStands s t) (hs : s.FlashOwned) : t.FlashOwned :=
  ⟨by rw [h.cfg]; exact hs.noLimit, h.bus.trans hs.bus, h.lockOk hs.lock, flashOk_congr h.flash hs.flash,
    h.flashHeld hs.held⟩

theorem holderStands_supersede (s : State) : HolderStands s (supersede s) :=
  List.foldlRecOn (motive := HolderStands s) _ _ (holderStands_of_same rfl rfl rfl rfl rfl rfl)
    fun _ h lo _ => h.trans ((taskOnly_supersedeTask lo _).holderStands fun j => position_supersedeTask lo j _)

theorem holderStands_withdrawAll (s : State) : HolderStands s (withdrawAll s) := by
  refine (taskOnly_withdrawAll s).holderStands fun j => ?_
  rw [ctxAt_withdrawAll]
  split
  · rename_i h
    simp only [isWithdrawn, Bool.and_eq_true, Bool.not_eq_true'] at h
    exact .inr ⟨h.2, rfl, rfl⟩
  · exact .inl rfl

/-- Steps 1-4 of a tick let the LOCK holder stand (rules R211, R212, R216). -/
theorem holderStands_arbitrate (s : State) : HolderStands s (arbitrate s) := by
  have hrelease : HolderStands s (release (s.setPort { s.port with rx := .none, sent := [] })) :=
    holderStands_of_same rfl rfl rfl rfl rfl rfl
  exact hrelease.trans ((holderStands_supersede _).trans (holderStands_withdrawAll _))

/-- The LOCK holder's slice: it polls, or commands an idle Flash (rule R159). -/
theorem slice_holder_parked (s : State) (hs : s.FlashOwned) (hv : s.lockV = true) :
    Parked s.lockK (slice s.lockK (taskRule s.lockK s) s) := by
  obtain ⟨hp, hf⟩ := hs.lock.1 hv
  have hr := orderly_classRule s.lockK (s.taskCfg s.lockK).cls
  have hold : Holds s.lockK s := ⟨hv, rfl, hp⟩
  cases hfs : (s.ctxAt s.lockK).fs with
  | boundary => exact absurd hfs hf
  | enabled =>
    have hb : s.flash.busy = false := by
      by_contra hb
      have := (hs.held (by simpa using hb)).2
      simp [hfs] at this
    rw [slice_command _ _ s hp hfs]
    exact commandStep_parked hr s hold hb
  | issued =>
    rw [slice_poll _ _ s hp hfs]
    exact pollStep_parked hr s hs.noLimit hold hfs

/-- The slice of the scan choice, with LOCK free and so the Flash idle. -/
theorem slice_scanned_parked (k : Task) (s : State) (hs : s.FlashOwned) (hv : s.lockV = false)
    (hf : (s.ctxAt k).fs = .boundary) (ha : bitAt s.ack k = false) : Parked k (slice k (taskRule k s) s) := by
  have hidle : s.flash.busy = false := by
    by_contra hb
    have := (hs.held (by simpa using hb)).1
    simp [hv] at this
  have hb : (slice k (taskRule k s) s).flash.busy = false := (slice_boundary_busy k _ s hf).trans hidle
  rcases slice_scanned (orderly_classRule k _) s rfl hv hf ha with h | ⟨h, -⟩
  · exact .free h.lockV h.fs hb
  · exact .inside ⟨h.lockV, h.lockK, h.phase⟩ h.fs fun h => by simp [hb] at h

theorem serve_owned (s : State) (k : Task) (hk : s.sel = some k) (hs : s.FlashOwned) :
    (slice k (taskRule k s) s).FlashOwned := by
  have sends := serve_sends k s
  have park (h : Parked k (slice k (taskRule k s) s)) (hother : ∀ j, j ≠ k → (s.ctxAt j).fs = .boundary) :
      (slice k (taskRule k s) s).FlashOwned := by
    obtain ⟨hlock, hheld⟩ := h.lockOk_flashHeld fun j hj => by rw [sends.others j hj]; exact hother j hj
    exact ⟨by rw [sends.cfg]; exact hs.noLimit, sends.bus.trans hs.bus, hlock, sends.flashOk hs.flash, hheld⟩
  rw [State.sel] at hk
  split at hk
  · rename_i hv
    obtain rfl : s.lockK = k := by simpa using hk
    refine park (slice_holder_parked s hs hv) fun j hj => ?_
    by_contra hf
    exact hj (hs.lock.2 j hf).2.symm
  · rename_i hv
    have hbound (j : Task) : (s.ctxAt j).fs = .boundary := by
      by_contra hf
      exact hv (hs.lock.2 j hf).1
    have hpend := ((scan_some s k).mp hk).1
    simp only [isPending, Bool.and_eq_true, Bool.not_eq_true'] at hpend
    exact park (slice_scanned_parked k s hs (by simpa using hv) (hbound k) hpend.2) fun j _ => hbound j

theorem setEnv_owned (s : State) (e : Env) (hs : s.FlashOwned) : (s.setEnv e).FlashOwned :=
  HolderStands.owned (s := s) (holderStands_of_same rfl rfl rfl rfl rfl rfl) hs

theorem setRing_owned (s : State) (r : Ring) (hs : s.FlashOwned) : (s.setRing r).FlashOwned :=
  HolderStands.owned (s := s) (holderStands_of_same rfl rfl rfl rfl rfl rfl) hs

theorem tick_owned {s t : State} (h : tick s = .next t) (hs : s.FlashOwned) : t.FlashOwned := by
  obtain ⟨u, hu, rfl⟩ := tick_next h
  have harb := (holderStands_arbitrate s).owned hs
  have hend : HolderStands u (endTick u) := by
    rw [endTick_eq]; exact holderStands_of_same rfl rfl rfl rfl rfl rfl
  cases hu with
  | idle => exact hend.owned harb
  | serves k hk => exact hend.owned (serve_owned _ k hk harb)

theorem holderStands_writeReg (s : State) (v : Word) (r : Reg) : HolderStands s (writeReg s v r) := by
  cases r with
  | ctx k r =>
    refine ⟨rfl, rfl, rfl, rfl, rfl, fun j => .inl ?_⟩
    rw [writeReg, ctxAt_modCtx]
    split
    · rename_i hj; rw [hj]; cases r <;> rfl
    · rfl
  | _ => exact holderStands_of_same rfl rfl rfl rfl rfl rfl

theorem flashDone_owned (s : State) (hs : s.FlashOwned) : (flashDone s).FlashOwned := by
  rcases flashDone_cases s with h | ⟨op, -, h⟩ <;> rw [h]
  · exact hs
  · exact ⟨hs.noLimit, hs.bus, hs.lock, rfl, fun h => nomatch h⟩

theorem powerBack_owned (s : State) (h : s.cfg.busyPollLimit = none) : (powerBack s).FlashOwned := by
  have hfs (k : Task) : ((powerBack s).ctxAt k).fs = .boundary := by
    simp [powerBack, State.powerUp, State.setEnv, State.ctxAt, Vector.get_eq_getElem, Ctx.reset]
  exact ⟨h, rfl, ⟨(nomatch ·), fun k hk => absurd (hfs k) hk⟩, rfl, (nomatch ·)⟩

theorem loseFlash_cfg (s : State) : (loseFlash s).cfg = s.cfg := powerLost_cfg [] s

theorem act_owned {a : Action} {s t : State} (h : act a s = .next t) (hs : s.FlashOwned) : t.FlashOwned := by
  cases a with
  | hostWrite width off v => obtain rfl := hostWrite_next h; exact (holderStands_writeReg s v _).owned hs
  | hostRead width off => obtain rfl := hostRead_next h; exact setEnv_owned s _ hs
  | push v => cases h; exact setRing_owned s _ hs
  | tick between => exact tick_owned h (setEnv_owned s _ hs)
  | done => cases h; exact flashDone_owned s hs
  | power => cases h; exact powerBack_owned _ (by rw [loseFlash_cfg, hs.noLimit])
  | powerInFrame =>
    obtain ⟨u, -, hu⟩ := tick_cases s
    simp only [act, powerLossInFrame, hu] at h
    cases h
    exact powerBack_owned _ (by rw [powerLost_cfg, hs.noLimit])

theorem step_owned {s t : State} (h : step s = .next t) (hs : s.FlashOwned) : t.FlashOwned := by
  simp only [step, hs.bus] at h
  split at h
  · exact tick_owned h hs
  · exact act_owned h (setEnv_owned s _ hs)

/-- A tick that finds the Flash busy serves the LOCK holder, who polls it and waits (rule R159). -/
theorem tick_busy_sent {s t : State} (h : tick s = .next t) (hs : s.FlashOwned) (hb : s.flash.busy = true) :
    t.port.sent = [encodeFrame s.cfg.cmds .flRdsr] := by
  have ha := (holderStands_arbitrate s).owned hs
  have hb' : (arbitrate s).flash.busy = true := by rw [arbitrate_flash, hb]
  obtain ⟨hv, hf⟩ := ha.held hb'
  have hsel : (arbitrate s).sel = some (arbitrate s).lockK := by rw [State.sel, if_pos hv]
  have hslice := slice_poll _ (taskRule (arbitrate s).lockK (arbitrate s)) _ (ha.lock.1 hv).1 hf
  rw [pollStep_waits _ _ _ hb' ha.noLimit] at hslice
  rw [tick_eq, hsel] at h
  simp only [hslice, endTick_eq] at h
  cases h
  simp

/-- Settles O52: the premises as one invariant of the step, and the polls of a tick under it. -/
theorem busyFlashOnlyPolled : Obligations.BusyFlashOnlyPolled := by
  unfold Obligations.BusyFlashOnlyPolled
  intro s t hlimit hbus hlock hflash hheld
  have hs : s.FlashOwned := ⟨hlimit, hbus, hlock, hflash, hheld⟩
  refine ⟨fun h => ?_, fun h hb f hf => ?_⟩
  · have ht := step_owned h hs
    exact ⟨ht.bus, ht.lock, ht.flash, ht.held⟩
  · rw [tick_busy_sent h hs hb] at hf
    exact List.mem_singleton.mp hf

end Sys2Proof.Machine

namespace Sys2Proof.Machine

/-! ### Program and erase frames -/

theorem isCal_iff (p : Params) (sector : Nat) :
    p.isCal sector = true ↔ ∃ r ∈ p.regions, r.kind = .cal ∧ r.first ≤ sector ∧ sector ≤ r.last := by
  simp only [Params.isCal, List.any_eq_true, Bool.and_eq_true, beq_iff_eq, decide_eq_true_iff, and_assoc]

/-- A sector run that a CAL region touches (rules R66, R75). -/
theorem any_isCal_iff (p : Params) (first count : Nat) :
    ((List.range count).any fun i => p.isCal (first + i)) = true ↔ ∃ r ∈ p.regions, r.kind = .cal ∧
      ∃ sector, first ≤ sector ∧ sector < first + count ∧ r.first ≤ sector ∧ sector ≤ r.last := by
  simp only [List.any_eq_true, List.mem_range, isCal_iff]
  constructor
  · rintro ⟨i, hi, r, hr, hk, hlo, hhi⟩
    exact ⟨r, hr, hk, first + i, by omega, by omega, hlo, hhi⟩
  · rintro ⟨r, hr, hk, sector, h1, h2, hlo, hhi⟩
    exact ⟨sector - first, by omega, r, hr, hk, by omega, by omega⟩

/-- A page lies in the sector of its packed address (rule R61). -/
theorem sectorOf_byteAddrOf (p : Packed) : (byteAddrOf p).toNat / Config.sectorBytes = (sectorOf p).toNat := by
  have := p.isLt
  rw [toNat_byteAddrOf, sectorOf, BitVec.extractLsb'_toNat, Nat.shiftRight_eq_div_pow, Config.sectorBytes]
  omega

/-- A program or erase frame as a whole state (rules R123-R125). -/
theorem exec_flashCommand {i : Instr} {s : State} {op : FlashOp} (hi : i.WellFormed) (h : flashTarget s.cfg i = some op) :
    exec i s = .next { s with port := { s.port with rx := .none }, flash := s.commanded op } := by
  cases i <;> simp only [flashTarget, Option.some.injEq, reduceCtorEq] at h <;> subst h
  case flPp p words => rw [exec_frame _ s rfl, deviceEffect, flPp, if_pos hi, noRx_flashCommand]
  case flSe p => rw [exec_frame _ s rfl, deviceEffect, flSe, noRx_flashCommand]
  case flBe p => rw [exec_frame _ s rfl, deviceEffect, flBe, noRx_flashCommand]

/-- Settles O11: each frame's operation and the sectors it touches. -/
theorem flashCommandsStartOperation : Obligations.FlashCommandsStartOperation := by
  unfold Obligations.FlashCommandsStartOperation
  intro i op first count hit s hi hkind hhit
  obtain ⟨htarget, hcal⟩ : flashTarget s.cfg i = some op ∧
      op.inCal s.cfg = (List.range count).any fun j => s.cfg.isCal (first + j) := by
    rcases hkind with ⟨p, words, rfl, rfl, rfl, rfl⟩ | ⟨p, rfl, rfl, rfl, rfl⟩ | ⟨p, blk, rfl, rfl, rfl, rfl, rfl⟩
    · refine ⟨rfl, (congrArg s.cfg.isCal (sectorOf_byteAddrOf p)).trans ?_⟩
      simp [sectorOf]
    · exact ⟨rfl, by simp [FlashOp.inCal]⟩
    · exact ⟨rfl, rfl⟩
  have hin : op.inCal s.cfg = hit := Bool.eq_iff_iff.mpr (by rw [hcal, any_isCal_iff, hhit])
  rw [exec_flashCommand hi htarget, State.commanded, hin]

/-! ### FRAM frames -/

theorem setFram_self (d : FramSel) (s : State) : s.setFram d ⟨(s.fram d).array, (s.fram d).wel⟩ = s := by
  cases d <;> rfl

/-- A write frame as a whole state (rules R77, R132). -/
theorem frWrite_eq (d : FramSel) (a : FramAddr) (bytes : List Byte) (s : State)
    (h : (Instr.frWrite d a bytes).illFormed = none) :
    frWrite d a bytes s = s.noRx.setFram d ⟨framWritten s.cfg d a bytes (s.fram d), false⟩ := by
  rw [frWrite, if_pos h, framWritten]
  cases hw : (s.fram d).wel with
  | true => cases d <;> rfl
  | false =>
    have := setFram_self d s.noRx
    rw [noRx_fram, hw] at this
    exact this.symm

/-- Settles O14: what the write leaves in the FRAM's array, enabled or not. -/
theorem framWriteStoresBytes : Obligations.FramWriteStoresBytes := by
  unfold Obligations.FramWriteStoresBytes
  intro d a bytes s h1 h2
  refine ⟨framWritten s.cfg d a bytes (s.fram d), ?_, fun hw => if_neg (by simp [hw]), fun hw => ?_⟩
  · rw [exec_frame _ s rfl, deviceEffect, frWrite_eq d a bytes s (illFormed_frWrite d a bytes h1 h2)]
    rfl
  · rw [framWritten, if_pos hw]
    exact ⟨read_writeWrap_last _ bytes _ _, read_writeWrap_outside _ bytes _ _⟩

/-- Settles O15: the bytes of the array and nothing else. -/
theorem framReadReturnsArray : Obligations.FramReadReturnsArray := by
  unfold Obligations.FramReadReturnsArray
  intro d a n s h1 h2
  refine ⟨(s.fram d).array.readWrap (s.cfg.framBytes d.dev) a.toNat n, ?_, length_readWrap _ _ _ _,
    fun i h => getElem_readWrap _ _ _ _ i h⟩
  rw [exec_frame _ s rfl, deviceEffect, frRead, if_pos (illFormed_frRead d a n h1 h2)]
  rfl

/-! ### The completion step -/

/-- The completion step of a busy Flash as a whole state (rule R79). -/
theorem flashDone_busy {s : State} {op : FlashOp} (hb : s.flash.busy = true) (ho : s.flash.op = some op) :
    flashDone s = { s with flash := ⟨op.apply s.cfg s.flash.array, false, false, none, s.flash.bp⟩ } := by
  simp only [flashDone, hb, ho]
  rfl

/-- A step without a frame on the wire takes the next input (log entry 6). -/
theorem step_input {s : State} {a : Action} {rest : List Action} (hb : s.port.bus = none)
    (hi : s.env.inputs = a :: rest) : step s = act a (s.setEnv { s.env with inputs := rest }) := by
  simp only [step, hb, hi]

/-- Settles O16: the laws of a program and of an erase. -/
theorem completionAppliesOperation : Obligations.CompletionAppliesOperation := by
  unfold Obligations.CompletionAppliesOperation
  intro s op rest hbus hin hb ho
  refine ⟨op.apply s.cfg s.flash.array, ?_, ?_⟩
  · rw [step_input hbus hin, act]
    exact congrArg _ (flashDone_busy (s := s.setEnv _) hb ho)
  · cases op with
    | program a bytes =>
      exact ⟨fun i h => read_program_inside _ bytes _ _ i h, fun x hx => read_program_outside _ bytes _ _ x hx⟩
    | eraseSector sec => exact fun x => read_erase _ _ _ x
    | eraseBlock blk => exact fun x => read_erase _ _ _ x

end Sys2Proof.Machine

namespace Sys2Proof.Machine

/-! ### What a power loss leaves in the arrays (rule R88) -/

/-- No byte of the range of `n` from `a` on, modulo the size, is `x`. -/
def Misses (size a n x : Nat) : Prop := ∀ i < n, (a + i) % size ≠ x

theorem loseTarget_read {op : FlashOp} {s : State} {x : Nat}
    (h : Misses s.cfg.flashBytes (op.target s.cfg).1 (op.target s.cfg).2 x) :
    (loseTarget op s).flash.array.read x = s.flash.array.read x :=
  read_scramble_outside _ _ _ _ _ x h

theorem loseTarget_fram (op : FlashOp) (s : State) (d : FramSel) : (loseTarget op s).fram d = s.fram d := by
  rw [loseTarget, useFree_fram, fram_setFlash]

@[simp] theorem loseFram_cfg (d : FramSel) (a : FramAddr) (n : Nat) (s : State) : (loseFram d a n s).cfg = s.cfg := by
  rw [loseFram, useFree_cfg, setFram_cfg]

theorem loseFram_flash (d : FramSel) (a : FramAddr) (n : Nat) (s : State) : (loseFram d a n s).flash = s.flash := by
  rw [loseFram, useFree_flash, setFram_flash]

theorem loseFram_read {d e : FramSel} {a : FramAddr} {n : Nat} {s : State} {x : Nat}
    (h : e = d → Misses (s.cfg.framBytes d.dev) a.toNat n x) :
    ((loseFram d a n s).fram e).array.read x = (s.fram e).array.read x := by
  rw [loseFram, useFree_fram, setFram_fram]
  split
  · rename_i hed
    subst hed
    exact read_scramble_outside _ _ _ _ _ x (h rfl)
  · rfl

/-- An idle Flash loses nothing between frames. -/
theorem loseFlash_idle {s : State} (h : s.flash.busy = false) : loseFlash s = s := by
  simp only [loseFlash, h]

theorem loseFlash_busy {s : State} {op : FlashOp} (hb : s.flash.busy = true) (ho : s.flash.op = some op) :
    loseFlash s = loseTarget op s := by
  simp only [loseFlash, hb, ho]

/-- A byte outside the target of a busy Flash's operation. -/
theorem loseFlash_read {s : State} {x : Nat} (h : ∀ op, s.flash.busy = true → s.flash.op = some op →
    Misses s.cfg.flashBytes (op.target s.cfg).1 (op.target s.cfg).2 x) :
    (loseFlash s).flash.array.read x = s.flash.array.read x := by
  cases hb : s.flash.busy with
  | false => rw [loseFlash_idle hb]
  | true =>
    cases ho : s.flash.op with
    | none => simp only [loseFlash, hb, ho]
    | some op => rw [loseFlash_busy hb ho, loseTarget_read (h op hb ho)]

theorem loseFlash_fram (s : State) (d : FramSel) : (loseFlash s).fram d = s.fram d := by
  rcases loseFlash_cases s with h | ⟨op, h⟩ <;> rw [h]
  exact loseTarget_fram op s d

/-- A frame that programs or erases loses its target, a write frame its bytes, and every other frame nothing. -/
inductive LosesInFrame (i : Instr) (s : State) : State → Prop
  | target (op : FlashOp) (h : flashTarget s.cfg i = some op) : LosesInFrame i s (loseTarget op s)
  | fram (d : FramSel) (a : FramAddr) (bytes : List Byte) (h : i = .frWrite d a bytes) :
      LosesInFrame i s (loseFram d a bytes.length s)
  | nothing : LosesInFrame i s s

theorem losesInFrame (i : Instr) (s : State) : LosesInFrame i s (loseInFrame i s) := by
  simp only [loseInFrame]
  split
  · exact .target _ ‹_›
  · split
    · exact .fram _ _ _ rfl
    · exact .nothing

theorem LosesInFrame.cfg {i : Instr} {s t : State} (h : LosesInFrame i s t) : t.cfg = s.cfg := by
  cases h with
  | target op h => rfl
  | fram d a bytes h => exact loseFram_cfg d a _ s
  | nothing => rfl

theorem LosesInFrame.flash_read {i : Instr} {s t : State} {x : Nat} (h : LosesInFrame i s t)
    (hx : ∀ op, flashTarget s.cfg i = some op → Misses s.cfg.flashBytes (op.target s.cfg).1 (op.target s.cfg).2 x) :
    t.flash.array.read x = s.flash.array.read x := by
  cases h with
  | target op h => exact loseTarget_read (hx op h)
  | fram d a bytes h => rw [loseFram_flash]
  | nothing => rfl

theorem LosesInFrame.fram_read {i : Instr} {s t : State} {e : FramSel} {x : Nat} (h : LosesInFrame i s t)
    (hx : ∀ a bytes, i = .frWrite e a bytes → Misses (s.cfg.framBytes e.dev) a.toNat bytes.length x) :
    (t.fram e).array.read x = (s.fram e).array.read x := by
  cases h with
  | target op h => rw [loseTarget_fram]
  | fram d a bytes h => exact loseFram_read fun hed => by subst hed; exact hx a bytes h
  | nothing => rfl

/-- What every understood frame of a list keeps, its losses keep. -/
theorem loseInFrames_induction {P : State → Prop} (fs : List Frame) (s : State) (h : P s)
    (hstep : ∀ t u, t.cfg = s.cfg → P t → ∀ f ∈ fs, ∀ i, decodeFrame s.cfg.cmds f = .ok i → LosesInFrame i t u → P u) :
    P (loseInFrames fs s) := by
  refine (List.foldlRecOn (motive := fun t => t.cfg = s.cfg ∧ P t) fs _ ⟨rfl, h⟩ fun t ht f hf => ?_).2
  obtain ⟨hc, hP⟩ := ht
  split
  · rename_i i hi
    rw [hc] at hi
    have hlost := losesInFrame i t
    exact ⟨hlost.cfg.trans hc, hstep t _ hc hP f hf i hi hlost⟩
  · exact ⟨hc, hP⟩

/-- A byte of the Flash that no frame of a list targets. -/
theorem loseInFrames_flash_read {fs : List Frame} {s : State} {x : Nat}
    (h : ∀ f ∈ fs, ∀ i op, decodeFrame s.cfg.cmds f = .ok i → flashTarget s.cfg i = some op →
      Misses s.cfg.flashBytes (op.target s.cfg).1 (op.target s.cfg).2 x) :
    (loseInFrames fs s).flash.array.read x = s.flash.array.read x :=
  loseInFrames_induction (P := fun t => t.flash.array.read x = s.flash.array.read x) fs s rfl
    fun t u hc ht f hf i hi hlost => (hlost.flash_read (by rw [hc]; exact fun op => h f hf i op hi)).trans ht

/-- A byte of an FRAM that no write frame of a list addresses. -/
theorem loseInFrames_fram_read {fs : List Frame} {s : State} {d : FramSel} {x : Nat}
    (h : ∀ f ∈ fs, ∀ a bytes, decodeFrame s.cfg.cmds f = .ok (.frWrite d a bytes) →
      Misses (s.cfg.framBytes d.dev) a.toNat bytes.length x) :
    ((loseInFrames fs s).fram d).array.read x = (s.fram d).array.read x :=
  loseInFrames_induction (P := fun t => (t.fram d).array.read x = (s.fram d).array.read x) fs s rfl
    fun t u hc ht f hf i hi hlost =>
      (hlost.fram_read (by rw [hc]; exact fun a bytes e => h f hf a bytes (e ▸ hi))).trans ht

/-- A power loss takes free values and leaves the inputs that follow. -/
theorem powerLost_inputs (fs : List Frame) (s : State) :
    (loseInFrames fs (loseFlash s)).env.inputs = s.env.inputs :=
  powerLost_induction (P := fun t => t.env.inputs = s.env.inputs) (fun _ _ h => h)
    (fun d a n t h => by cases d <;> exact h) fs s rfl

/-- After the power returns all but the arrays has its reset value (rules R258, R270). -/
theorem powerBack_eq (fs : List Frame) (s t : State) (h : t = loseInFrames fs (loseFlash s)) :
    powerBack t = { State.powerUp s.cfg t.flash.array (t.fram .fram1).array (t.fram .fram2).array with
      env := ⟨s.env.inputs, [], 0, t.env.free⟩ } := by
  have hc : t.cfg = s.cfg := h ▸ powerLost_cfg fs s
  have hi : t.env.inputs = s.env.inputs := h ▸ powerLost_inputs fs s
  rw [powerBack, hc, hi]
  rfl

/-- Settles O17: the bytes outside the target of a busy Flash's operation, and the reset of the rest. -/
theorem powerLossKeepsArrays : Obligations.PowerLossKeepsArrays := by
  unfold Obligations.PowerLossKeepsArrays
  intro s rest hbus hin
  have hstep := step_input hbus hin
  generalize hv : s.setEnv { s.env with inputs := rest } = v at hstep
  have hback := powerBack_eq [] v (loseFlash v) rfl
  rw [loseFlash_fram, loseFlash_fram] at hback
  rw [act, powerLoss, hback] at hstep
  subst hv
  refine ⟨_, _, hstep, fun hb => ?_, fun op ho x hx => loseFlash_read (s := s.setEnv _) fun op' _ ho' => ?_⟩
  · rw [loseFlash_idle]
    exacts [rfl, hb]
  · obtain rfl : op = op' := Option.some.inj (ho.symm.trans ho')
    exact hx

/-- Settles O18: the bytes that neither the tick's frames nor a busy Flash's operation target, and the reset of the
rest. -/
theorem powerLossInsideFrame : Obligations.PowerLossInsideFrame := by
  unfold Obligations.PowerLossInsideFrame
  intro s u rest hbus hin htick
  have hstep := step_input hbus hin
  generalize hv : s.setEnv { s.env with inputs := rest } = v at hstep
  have htick' : tick v = .next u := hv ▸ htick
  simp only [act, powerLossInFrame, htick', powerBack_eq u.port.sent v _ rfl] at hstep
  subst hv
  have hcfg : (loseFlash (s.setEnv { s.env with inputs := rest })).cfg = s.cfg := loseFlash_cfg _
  refine ⟨_, _, _, _, hstep, fun x hbusy hframes => ?_, fun x hframes => ?_, fun x hframes => ?_⟩
  · exact (loseInFrames_flash_read (by rw [hcfg]; exact hframes)).trans (loseFlash_read (s := s.setEnv _) hbusy)
  · exact (loseInFrames_fram_read (by rw [hcfg]; exact hframes)).trans
      (congrArg (·.array.read x) (loseFlash_fram _ .fram1))
  · exact (loseInFrames_fram_read (by rw [hcfg]; exact hframes)).trans
      (congrArg (·.array.read x) (loseFlash_fram _ .fram2))

end Sys2Proof.Machine

namespace Sys2Proof.Machine

/-! ### The generic read (rule R233) -/

/-- An address of a generic task in an FRAM (rules R38, R62). -/
theorem toNat_framAddr_half (p : Params) (d : Dev) (a : BitVec 16) :
    (framAddr p d a.toNat).toNat = a.toNat % p.framBytes d := by
  have := Nat.mod_le a.toNat (p.framBytes d)
  have := a.isLt
  rw [framAddr, BitVec.toNat_ofNat, Nat.mod_eq_of_lt (by omega)]

theorem readFrame_framSel (p : Params) (c : Ctx) (d : FramSel) :
    readFrame p c d.dev = .frRead d (framAddr p d.dev c.addr.toNat) (2 * c.n.toNat) := by
  cases d <;> rfl

/-- The bytes that a generic read finds in its device, where that is idle. -/
def State.genericBytes (s : State) (c : Ctx) (d : Dev) : List Byte :=
  (s.arrayOf d).readWrap (s.sizeOf d)
    (if d = .flash then c.addr.toNat * 256 else c.addr.toNat % s.sizeOf d) (2 * c.n.toNat)

theorem genericBytes_framSel (s : State) (c : Ctx) (d : FramSel) : s.genericBytes c d.dev =
    (s.fram d).array.readWrap (s.cfg.framBytes d.dev) (c.addr.toNat % s.cfg.framBytes d.dev) (2 * c.n.toNat) := by
  cases d <;> rfl

/-- The frame of a generic read to a device that is idle. -/
theorem transact_readFrame_idle {s : State} {c : Ctx} {d : Dev} (h1 : 1 ≤ c.n.toNat) (h2 : c.n.toNat ≤ 128)
    (hb : ¬(d = .flash ∧ s.flash.busy = true)) :
    transact (readFrame s.cfg c d) s = s.afterRead (readFrame s.cfg c d) (s.genericBytes c d) := by
  have fram (e : FramSel) :
      transact (readFrame s.cfg c e.dev) s = s.afterRead (readFrame s.cfg c e.dev) (s.genericBytes c e.dev) := by
    rw [readFrame_framSel, genericBytes_framSel, ← toNat_framAddr_half]
    exact transact_frRead_state _ _ _ s (illFormed_frRead _ _ _ (by omega) (by omega))
  cases d with
  | flash =>
    have hread := transact_flRead_state (byteAddrOf c.addr) c.n.toNat s (illFormed_flRead _ _ h1 h2)
    rw [if_neg fun h => hb ⟨rfl, h⟩, toNat_byteAddrOf, Nat.mul_comm 256] at hread
    exact hread
  | fram1 => exact fram .fram1
  | fram2 => exact fram .fram2

/-- The frame of a generic read to a busy Flash: free bytes (rules R72, R128). -/
theorem transact_readFrame_busy {s : State} {c : Ctx} (h1 : 1 ≤ c.n.toNat) (h2 : c.n.toNat ≤ 128)
    (hb : s.flash.busy = true) :
    transact (readFrame s.cfg c .flash) s =
      { s.afterRead (readFrame s.cfg c .flash) (freeBytes s.env.free (2 * c.n.toNat)) with
        env := { s.env with free := s.env.free + 2 * c.n.toNat } } := by
  have hread := transact_flRead_state (byteAddrOf c.addr) c.n.toNat s (illFormed_flRead _ _ h1 h2)
  rw [if_pos hb] at hread
  exact hread

/-- The frame of a generic read as a whole state, with the bytes it returns. -/
theorem transact_readFrame {s : State} {c : Ctx} {d : Dev} (h1 : 1 ≤ c.n.toNat) (h2 : c.n.toNat ≤ 128) :
    ∃ (bytes : List Byte) (free : Nat),
      transact (readFrame s.cfg c d) s =
        { s.afterRead (readFrame s.cfg c d) bytes with env := { s.env with free := free } } ∧
      bytes.length = 2 * c.n.toNat ∧
      (¬(d = .flash ∧ s.flash.busy = true) → free = s.env.free ∧ bytes = s.genericBytes c d) := by
  by_cases hb : d = .flash ∧ s.flash.busy = true
  · obtain ⟨rfl, hbusy⟩ := hb
    exact ⟨_, _, transact_readFrame_busy h1 h2 hbusy, length_freeBytes _ _, fun h => absurd ⟨rfl, hbusy⟩ h⟩
  · exact ⟨s.genericBytes c d, s.env.free, transact_readFrame_idle h1 h2 hb, length_readWrap _ _ _ _,
      fun _ => ⟨rfl, rfl⟩⟩

/-- An update of a context that was written before leaves the last writing alone. -/
theorem modCtx_of_ctx {t : State} {v : Vector Ctx 32} {k : Task} {c : Ctx} (h : t.ctx = v.set k.val c) (f : Ctx → Ctx) :
    t.modCtx k f = { t with ctx := v.set k.val (f c) } := by
  rw [modCtx_eq, ctxAt_of_ctx h, h, Vector.set_set]

/-- The one slice of a READ whose begin check passes (rules R218, R230, R233). -/
theorem exec_read {k : Task} {s : State} {d : Dev} (hcls : (s.taskCfg k).cls = .read)
    (hphase : (s.ctxAt k).phase = .idle) (hdev : devOfSelector (s.ctxAt k).dev = some d) (hmem : d ∈ (s.taskCfg k).devs)
    (h1 : 1 ≤ (s.ctxAt k).n.toNat) (h2 : (s.ctxAt k).n.toNat ≤ 128) :
    exec (requestInstrs.get k) s = .next (finish k .ok
      ((transact (readFrame s.cfg (s.begun k) d) (beginTask k s)).modCtx k fun c => c.withBuf c.n.toNat
        (halvesOf (transact (readFrame s.cfg (s.begun k) d) (beginTask k s)).port.rx.bytes))) := by
  have hsel : selectedDev k (beginTask k s) = some d := by
    rw [selectedDev_eq_some, ctxAt_beginTask, taskCfg_beginTask]
    exact ⟨hdev, hmem⟩
  have hvalid : (readRule k).valid (beginTask k s) = true := by
    simp only [readRule, hsel, Option.isSome_some, Bool.true_and, wordCountOk_iff, ctxAt_beginTask]
    exact ⟨h1, h2⟩
  have hslice : slice k (readRule k) s = runTask k (readRule k) (beginTask k s) :=
    (slice_idle k (readRule k) s hphase).trans (if_pos hvalid)
  have hstep : runTask k (readRule k) (beginTask k s) = readStep k (beginTask k s) :=
    if_pos (by rw [ctxAt_beginTask]; rfl)
  rw [exec_class k .read s hcls, classRule, hslice, hstep]
  simp only [readStep, hsel, ctxAt_beginTask, beginTask_cfg]

/-- Settles O45: the one slice of the read, its frame, and the words that its bytes make. -/
theorem genericReadFillsBuffer : Obligations.GenericReadFillsBuffer := by
  unfold Obligations.GenericReadFillsBuffer
  intro k d s start hcls hphase hdev hmem h1 h2 hstart
  obtain ⟨bytes, free, hread, hlen, hidle⟩ := transact_readFrame (s := beginTask k s) (c := s.begun k) (d := d) h1 h2
  refine ⟨bytes, ((s.begun k).withBuf (s.ctxAt k).n.toNat (halvesOf bytes)).buf, free, ?_, hlen, fun hb => ?_,
    fun j => ?_⟩
  · rw [exec_read hcls hphase hdev hmem h1 h2]
    rw [beginTask_cfg] at hread
    rw [hread]
    exact congrArg (fun t => Host.Outcome.next (finish k .ok t)) (modCtx_of_ctx rfl _)
  · obtain ⟨hfree, rfl⟩ := hidle hb
    refine ⟨hfree, fun j h => ?_⟩
    subst hstart
    exact getElem_readWrap _ _ _ _ j h
  · rw [withBuf_buf_get]
    split
    · rw [getD_halvesOf bytes j.val (by rw [hlen]; show _ < 2 * (s.ctxAt k).n.toNat; omega)]
      rfl
    · rfl

end Sys2Proof.Machine

namespace Sys2Proof

/-! ### What each frame decodes to (rules R97-R101) -/

theorem shaped_eq_ok {ok : Bool} {i j : Instr} : shaped ok i = .ok j ↔ ok = true ∧ i = j := by
  cases ok <;> simp [shaped]

/-- A frame of the opcode alone. -/
theorem shaped_bare_iff {rest : List Byte} {nIn m : Nat} {i j : Instr} :
    shaped (rest.isEmpty && nIn == m) i = .ok j ↔ rest = [] ∧ nIn = m ∧ i = j := by
  rw [shaped_eq_ok, Bool.and_eq_true, List.isEmpty_iff, beq_iff_eq, and_assoc]

theorem evenData_double (n : Nat) : evenData (2 * n) = true ↔ 1 ≤ n ∧ n ≤ 128 := by
  simp only [evenData, Bool.and_eq_true, beq_iff_eq, decide_eq_true_iff]
  omega

/-- Even data are twice a legal count of words. -/
theorem evenData_iff (n : Nat) : evenData n = true ↔ n = 2 * (n / 2) ∧ 1 ≤ n / 2 ∧ n / 2 ≤ 128 := by
  simp only [evenData, Bool.and_eq_true, beq_iff_eq, decide_eq_true_iff]
  omega

theorem wellFormed_flPp (p : Packed) (words : List Half) :
    (Instr.flPp p words).WellFormed ↔ 1 ≤ words.length ∧ words.length ≤ 128 := (Laws.TableRow.flPp p words).2

theorem wellFormed_flRead (a : FlashAddr) (n : Nat) : (Instr.flRead a n).WellFormed ↔ 1 ≤ n ∧ n ≤ 128 :=
  (Laws.TableRow.flRead a n).2

theorem wellFormed_frWrite (d : FramSel) (a : FramAddr) (bytes : List Byte) :
    (Instr.frWrite d a bytes).WellFormed ↔ 1 ≤ bytes.length ∧ bytes.length ≤ 256 := (Laws.TableRow.frWrite d a bytes).2

theorem wellFormed_frRead (d : FramSel) (a : FramAddr) (n : Nat) :
    (Instr.frRead d a n).WellFormed ↔ 1 ≤ n ∧ n ≤ 256 := (Laws.TableRow.frRead d a n).2

/-- The address phase is the address bytes, where they carry the address, and the data after them. -/
theorem addressPhase_iff (n a : Nat) (rest data : List Byte) :
    addressPhase n rest = some (a, data) ↔ a < 256 ^ n ∧ rest = addrBytes n a ++ data := by
  refine ⟨fun h => ⟨?_, addressPhase_some n a rest data h⟩, fun ⟨ha, hr⟩ => hr ▸ addressPhase_addrBytes n a data ha⟩
  unfold addressPhase at h
  split at h
  · rename_i hn
    injection h with h
    obtain ⟨rfl, -⟩ := Prod.mk.inj h
    simpa [hn] using addrOf_lt (rest.take n)
  · cases h

/-- A 24-bit address and its number. -/
theorem ofNat24_iff (a : Nat) (b : BitVec 24) : a < 2 ^ 24 ∧ BitVec.ofNat 24 a = b ↔ a = b.toNat := by
  constructor
  · rintro ⟨ha, rfl⟩
    rw [BitVec.toNat_ofNat, Nat.mod_eq_of_lt ha]
  · rintro rfl
    exact ⟨b.isLt, by simp⟩

/-- A page's byte address and its packed address (rules R61, R97). -/
theorem packedOf_iff (a : Nat) (p : Packed) : pageStart a = true ∧ packedOf a = p ↔ a = (byteAddrOf p).toNat := by
  constructor
  · rintro ⟨ha, rfl⟩
    exact (byteAddrOf_packedOf a ha).symm
  · rintro rfl
    exact ⟨pageStart_byteAddrOf p, packedOf_byteAddrOf p⟩

/-- The program frame, read and written (rules R97, R123). -/
theorem decodePp_iff {n nIn : Nat} {rest : List Byte} {i : Instr} : decodePp n rest nIn = .ok i ↔
    ∃ p words, i = .flPp p words ∧ i.WellFormed ∧ (byteAddrOf p).toNat < 256 ^ n ∧
      rest = addrBytes n (byteAddrOf p).toNat ++ halvesBytes words ∧ nIn = 0 := by
  constructor
  · intro h
    unfold decodePp at h
    split at h
    · rename_i a data hphase
      obtain ⟨hfit, rfl⟩ := (addressPhase_iff _ _ _ _).mp hphase
      simp only [shaped_eq_ok, Bool.and_eq_true, beq_iff_eq] at h
      obtain ⟨⟨⟨hpage, hin⟩, hdata⟩, rfl⟩ := h
      obtain ⟨heven, hwords⟩ := (evenData_iff _).mp hdata
      have haddr := byteAddrOf_packedOf a hpage
      refine ⟨_, _, rfl, (wellFormed_flPp _ _).mpr (by rwa [length_halvesOf]), by rwa [haddr], ?_, hin⟩
      rw [haddr, halvesBytes_halvesOf data (by omega)]
    · cases h
  · rintro ⟨p, words, rfl, hwf, hfit, rfl, rfl⟩
    rw [decodePp, addressPhase_addrBytes _ _ _ hfit]
    refine shaped_eq_ok.mpr ⟨?_, by rw [packedOf_byteAddrOf, halvesOf_halvesBytes]⟩
    simpa [evenData_double] using (wellFormed_flPp p words).mp hwf

/-- The erase frames, read and written (rules R97, R124, R125). -/
theorem decodeErase_iff {make : Packed → Instr} {n nIn : Nat} {rest : List Byte} {i : Instr} :
    decodeErase make n rest nIn = .ok i ↔ ∃ p, i = make p ∧ (byteAddrOf p).toNat < 256 ^ n ∧
      rest = addrBytes n (byteAddrOf p).toNat ∧ nIn = 0 := by
  constructor
  · intro h
    unfold decodeErase at h
    split at h
    · rename_i a data hphase
      obtain ⟨hfit, rfl⟩ := (addressPhase_iff _ _ _ _).mp hphase
      simp only [shaped_eq_ok, Bool.and_eq_true, beq_iff_eq, List.isEmpty_iff] at h
      obtain ⟨⟨⟨hpage, rfl⟩, hin⟩, rfl⟩ := h
      have haddr := byteAddrOf_packedOf a hpage
      exact ⟨_, rfl, by rwa [haddr], by rw [haddr, List.append_nil], hin⟩
    · cases h
  · rintro ⟨p, rfl, hfit, rfl, rfl⟩
    have hphase := addressPhase_addrBytes n _ [] hfit
    rw [List.append_nil] at hphase
    rw [decodeErase, hphase]
    exact shaped_eq_ok.mpr ⟨by simp, by rw [packedOf_byteAddrOf]⟩

/-- The Flash's read frame, read and written (rules R72, R128). -/
theorem decodeFlashRead_iff {n nIn : Nat} {rest : List Byte} {i : Instr} : decodeFlashRead n rest nIn = .ok i ↔
    ∃ a m, i = .flRead a m ∧ i.WellFormed ∧ a.toNat < 256 ^ n ∧ rest = addrBytes n a.toNat ∧ nIn = 2 * m := by
  constructor
  · intro h
    unfold decodeFlashRead at h
    split at h
    · rename_i a data hphase
      obtain ⟨hfit, rfl⟩ := (addressPhase_iff _ _ _ _).mp hphase
      simp only [shaped_eq_ok, Bool.and_eq_true, decide_eq_true_iff, List.isEmpty_iff] at h
      obtain ⟨⟨⟨hbits, rfl⟩, hdata⟩, rfl⟩ := h
      obtain ⟨heven, hwords⟩ := (evenData_iff _).mp hdata
      have haddr := (ofNat24_iff a _).mp ⟨hbits, rfl⟩
      exact ⟨_, _, rfl, (wellFormed_flRead _ _).mpr hwords, by rwa [← haddr], by rw [← haddr, List.append_nil], heven⟩
    · cases h
  · rintro ⟨a, m, rfl, hwf, hfit, rfl, rfl⟩
    have hphase := addressPhase_addrBytes n _ [] hfit
    rw [List.append_nil] at hphase
    rw [decodeFlashRead, hphase]
    refine shaped_eq_ok.mpr ⟨?_, by simp⟩
    simp [a.isLt, (evenData_double m).mpr ((wellFormed_flRead a m).mp hwf)]

/-! ### Opcodes (rules R99, R100) -/

/-- The commands of the Flash differ, each from those that the decoder asks for before it. -/
theorem Commands.flash_distinct {c : Commands} (h : c.distinct = true) :
    (c.read ≠ c.protect ∧ c.read ≠ c.unlock ∧ c.read ≠ c.be ∧ c.read ≠ c.se ∧ c.read ≠ c.pp ∧ c.read ≠ c.rdsr ∧
      c.read ≠ c.wren) ∧
    (c.protect ≠ c.unlock ∧ c.protect ≠ c.be ∧ c.protect ≠ c.se ∧ c.protect ≠ c.pp ∧ c.protect ≠ c.rdsr ∧
      c.protect ≠ c.wren) ∧
    (c.unlock ≠ c.be ∧ c.unlock ≠ c.se ∧ c.unlock ≠ c.pp ∧ c.unlock ≠ c.rdsr ∧ c.unlock ≠ c.wren) ∧
    (c.be ≠ c.se ∧ c.be ≠ c.pp ∧ c.be ≠ c.rdsr ∧ c.be ≠ c.wren) ∧ (c.se ≠ c.pp ∧ c.se ≠ c.rdsr ∧ c.se ≠ c.wren) ∧
    (c.pp ≠ c.rdsr ∧ c.pp ≠ c.wren) ∧ c.rdsr ≠ c.wren := by
  simp only [Commands.distinct, Bool.and_eq_true, decide_eq_true_iff] at h
  have hrev := List.nodup_reverse.mpr h.1
  simpa using hrev

theorem Commands.fram_distinct {c : Commands} (h : c.distinct = true) :
    (c.fread ≠ c.fwrite ∧ c.fread ≠ c.fwren) ∧ c.fwrite ≠ c.fwren := by
  simp only [Commands.distinct, Bool.and_eq_true, decide_eq_true_iff] at h
  have hrev := List.nodup_reverse.mpr h.2
  simpa using hrev

section opcodes
variable {c : Commands} (h : c.distinct = true) (rest : List Byte) (nIn : Nat)

theorem decodeFlash_wren : decodeFlash c c.wren rest nIn = shaped (rest.isEmpty && nIn == 0) .flWren := if_pos rfl

include h

theorem decodeFlash_rdsr : decodeFlash c c.rdsr rest nIn = shaped (rest.isEmpty && nIn == 1) .flRdsr := by
  simp [decodeFlash, Commands.flash_distinct h]

theorem decodeFlash_pp : decodeFlash c c.pp rest nIn = decodePp c.flashAddrBytes rest nIn := by
  simp [decodeFlash, Commands.flash_distinct h]

theorem decodeFlash_se : decodeFlash c c.se rest nIn = decodeErase .flSe c.flashAddrBytes rest nIn := by
  simp [decodeFlash, Commands.flash_distinct h]

theorem decodeFlash_be : decodeFlash c c.be rest nIn = decodeErase .flBe c.flashAddrBytes rest nIn := by
  simp [decodeFlash, Commands.flash_distinct h]

theorem decodeFlash_unlock : decodeFlash c c.unlock rest nIn = shaped (rest.isEmpty && nIn == 0) .flUlbpr := by
  simp [decodeFlash, Commands.flash_distinct h]

theorem decodeFlash_protect : decodeFlash c c.protect rest nIn = shaped (nIn == 0) (.flProtect rest) := by
  simp [decodeFlash, Commands.flash_distinct h]

theorem decodeFlash_read : decodeFlash c c.read rest nIn = decodeFlashRead c.flashAddrBytes rest nIn := by
  simp [decodeFlash, Commands.flash_distinct h]

end opcodes

/-! ### FRAM frames (rules R100, R103) -/

/-- The reading of an FRAM write frame with `n` address bytes, from the bytes after its opcode (rule R132). -/
def decodeFrWrite (d : FramSel) (n : Nat) (rest : List Byte) (nIn : Nat) : Except DecodeError Instr :=
  match addressPhase n rest with
  | some (a, data) =>
    shaped (decide (a < 2 ^ 24) && nIn == 0 && decide (1 ≤ data.length) && decide (data.length ≤ 256))
      (.frWrite d (BitVec.ofNat 24 a) data)
  | none => .error .malformedFrame

/-- The reading of an FRAM read frame, likewise (rule R133). -/
def decodeFrRead (d : FramSel) (n : Nat) (rest : List Byte) (nIn : Nat) : Except DecodeError Instr :=
  match addressPhase n rest with
  | some (a, data) =>
    shaped (decide (a < 2 ^ 24) && data.isEmpty && decide (1 ≤ nIn) && decide (nIn ≤ 256))
      (.frRead d (BitVec.ofNat 24 a) nIn)
  | none => .error .malformedFrame

/-- The decoder of FRAM frames by its opcodes. -/
theorem decodeFram_eq (c : Commands) (d : FramSel) (op : Byte) (rest : List Byte) (nIn : Nat) :
    decodeFram c d op rest nIn =
      if op = c.fwren then shaped (rest.isEmpty && nIn == 0) (.frWren d)
      else if op = c.fwrite then decodeFrWrite d (c.addrBytesOf d.dev) rest nIn
      else if op = c.fread then decodeFrRead d (c.addrBytesOf d.dev) rest nIn
      else .error .unknownOpcode := rfl

theorem decodeFrWrite_iff {d : FramSel} {n nIn : Nat} {rest : List Byte} {i : Instr} :
    decodeFrWrite d n rest nIn = .ok i ↔ ∃ a bytes, i = .frWrite d a bytes ∧ i.WellFormed ∧ a.toNat < 256 ^ n ∧
      rest = addrBytes n a.toNat ++ bytes ∧ nIn = 0 := by
  constructor
  · intro h
    unfold decodeFrWrite at h
    split at h
    · rename_i a data hphase
      obtain ⟨hfit, rfl⟩ := (addressPhase_iff _ _ _ _).mp hphase
      simp only [shaped_eq_ok, Bool.and_eq_true, beq_iff_eq, decide_eq_true_iff] at h
      obtain ⟨⟨⟨⟨hbits, hin⟩, hlo⟩, hhi⟩, rfl⟩ := h
      have haddr := (ofNat24_iff a _).mp ⟨hbits, rfl⟩
      exact ⟨_, _, rfl, (wellFormed_frWrite _ _ _).mpr ⟨hlo, hhi⟩, by rwa [← haddr], by rw [← haddr], hin⟩
    · cases h
  · rintro ⟨a, bytes, rfl, hwf, hfit, rfl, rfl⟩
    rw [decodeFrWrite, addressPhase_addrBytes _ _ _ hfit]
    refine shaped_eq_ok.mpr ⟨?_, by simp⟩
    simpa [a.isLt] using (wellFormed_frWrite d a bytes).mp hwf

theorem decodeFrRead_iff {d : FramSel} {n nIn : Nat} {rest : List Byte} {i : Instr} :
    decodeFrRead d n rest nIn = .ok i ↔ ∃ a, i = .frRead d a nIn ∧ i.WellFormed ∧ a.toNat < 256 ^ n ∧
      rest = addrBytes n a.toNat := by
  constructor
  · intro h
    unfold decodeFrRead at h
    split at h
    · rename_i a data hphase
      obtain ⟨hfit, rfl⟩ := (addressPhase_iff _ _ _ _).mp hphase
      simp only [shaped_eq_ok, Bool.and_eq_true, decide_eq_true_iff, List.isEmpty_iff] at h
      obtain ⟨⟨⟨⟨hbits, rfl⟩, hlo⟩, hhi⟩, rfl⟩ := h
      have haddr := (ofNat24_iff a _).mp ⟨hbits, rfl⟩
      exact ⟨_, rfl, (wellFormed_frRead _ _ _).mpr ⟨hlo, hhi⟩, by rwa [← haddr], by rw [← haddr, List.append_nil]⟩
    · cases h
  · rintro ⟨a, rfl, hwf, hfit, rfl⟩
    have hphase := addressPhase_addrBytes n _ [] hfit
    rw [List.append_nil] at hphase
    rw [decodeFrRead, hphase]
    refine shaped_eq_ok.mpr ⟨?_, by simp⟩
    simpa [a.isLt] using (wellFormed_frRead d a nIn).mp hwf

section opcodes
variable {c : Commands} (h : c.distinct = true) (d : FramSel) (rest : List Byte) (nIn : Nat)

theorem decodeFram_fwren : decodeFram c d c.fwren rest nIn = shaped (rest.isEmpty && nIn == 0) (.frWren d) := if_pos rfl

include h

theorem decodeFram_fwrite : decodeFram c d c.fwrite rest nIn = decodeFrWrite d (c.addrBytesOf d.dev) rest nIn := by
  simp [decodeFram_eq, Commands.fram_distinct h]

theorem decodeFram_fread : decodeFram c d c.fread rest nIn = decodeFrRead d (c.addrBytesOf d.dev) rest nIn := by
  simp [decodeFram_eq, Commands.fram_distinct h]

end opcodes

/-- An FRAM decodes what stands on its select line. -/
theorem decodeFrame_fram (c : Commands) (d : FramSel) (op : Byte) (rest : List Byte) (nIn : Nat) :
    decodeFrame c ⟨d.dev, op :: rest, nIn⟩ = decodeFram c d op rest nIn := by
  cases d <;> rfl

/-! ### Encoding and decoding frames -/

/-- The device reads the frame of a well-formed instruction as that instruction (rule R101). -/
theorem decodeFrame_encodeFrame {c : Commands} {i : Instr} (h : c.distinct = true) (htask : i.task = none)
    (hwf : i.WellFormed) (hfit : i.addressFits c = true) : decodeFrame c (encodeFrame c i) = .ok i := by
  cases i
  case flWren => exact decodeFlash_wren [] 0
  case flRdsr => exact decodeFlash_rdsr h [] 1
  case flPp p words =>
    exact (decodeFlash_pp h _ _).trans (decodePp_iff.mpr ⟨p, words, rfl, hwf, of_decide_eq_true hfit, rfl, rfl⟩)
  case flSe p => exact (decodeFlash_se h _ _).trans (decodeErase_iff.mpr ⟨p, rfl, of_decide_eq_true hfit, rfl, rfl⟩)
  case flBe p => exact (decodeFlash_be h _ _).trans (decodeErase_iff.mpr ⟨p, rfl, of_decide_eq_true hfit, rfl, rfl⟩)
  case flUlbpr => exact decodeFlash_unlock h [] 0
  case flProtect data => exact decodeFlash_protect h data 0
  case flRead a n =>
    exact (decodeFlash_read h _ _).trans
      (decodeFlashRead_iff.mpr ⟨a, n, rfl, hwf, of_decide_eq_true hfit, rfl, rfl⟩)
  case frWren d => exact (decodeFrame_fram c d _ _ _).trans (decodeFram_fwren d [] 0)
  case frWrite d a bytes =>
    exact (decodeFrame_fram c d _ _ _).trans ((decodeFram_fwrite h d _ _).trans
      (decodeFrWrite_iff.mpr ⟨a, bytes, rfl, hwf, of_decide_eq_true hfit, rfl, rfl⟩))
  case frRead d a n =>
    exact (decodeFrame_fram c d _ _ _).trans ((decodeFram_fread h d _ _).trans
      (decodeFrRead_iff.mpr ⟨a, rfl, hwf, of_decide_eq_true hfit, rfl⟩))
  all_goals cases htask

/-- A frame that the Flash understands is the encoding of what it is read as. -/
theorem encodeFrame_of_decodeFlash {c : Commands} {op : Byte} {rest : List Byte} {nIn : Nat} {i : Instr}
    (h : decodeFlash c op rest nIn = .ok i) : i.WellFormed ∧ encodeFrame c i = ⟨.flash, op :: rest, nIn⟩ := by
  unfold decodeFlash at h
  split_ifs at h with hop hop hop hop hop hop hop hop <;> subst hop
  · obtain ⟨rfl, rfl, rfl⟩ := shaped_bare_iff.mp h
    exact ⟨rfl, rfl⟩
  · obtain ⟨rfl, rfl, rfl⟩ := shaped_bare_iff.mp h
    exact ⟨rfl, rfl⟩
  · obtain ⟨p, words, rfl, hwf, -, rfl, rfl⟩ := decodePp_iff.mp h
    exact ⟨hwf, rfl⟩
  · obtain ⟨p, rfl, -, rfl, rfl⟩ := decodeErase_iff.mp h
    exact ⟨rfl, rfl⟩
  · obtain ⟨p, rfl, -, rfl, rfl⟩ := decodeErase_iff.mp h
    exact ⟨rfl, rfl⟩
  · obtain ⟨rfl, rfl, rfl⟩ := shaped_bare_iff.mp h
    exact ⟨rfl, rfl⟩
  · simp only [shaped_eq_ok, beq_iff_eq] at h
    obtain ⟨rfl, rfl⟩ := h
    exact ⟨rfl, rfl⟩
  · obtain ⟨a, n, rfl, hwf, -, rfl, rfl⟩ := decodeFlashRead_iff.mp h
    exact ⟨hwf, rfl⟩

/-- A frame that an FRAM understands is the encoding of what it is read as. -/
theorem encodeFrame_of_decodeFram {c : Commands} {d : FramSel} {op : Byte} {rest : List Byte} {nIn : Nat} {i : Instr}
    (h : decodeFram c d op rest nIn = .ok i) : i.WellFormed ∧ encodeFrame c i = ⟨d.dev, op :: rest, nIn⟩ := by
  rw [decodeFram_eq] at h
  split_ifs at h with hop hop hop <;> subst hop
  · obtain ⟨rfl, rfl, rfl⟩ := shaped_bare_iff.mp h
    exact ⟨rfl, rfl⟩
  · obtain ⟨a, bytes, rfl, hwf, -, rfl, rfl⟩ := decodeFrWrite_iff.mp h
    exact ⟨hwf, rfl⟩
  · obtain ⟨a, rfl, hwf, -, rfl⟩ := decodeFrRead_iff.mp h
    exact ⟨hwf, rfl⟩

/-- Settles O2: by the device that the frame selects. -/
theorem encodeInvertsDecodeFrame : Obligations.EncodeInvertsDecodeFrame := by
  unfold Obligations.EncodeInvertsDecodeFrame
  rintro c ⟨dev, out, nIn⟩ i h
  cases out with
  | nil => cases h
  | cons op rest =>
    cases dev with
    | flash => exact encodeFrame_of_decodeFlash h
    | fram1 => exact encodeFrame_of_decodeFram (d := .fram1) h
    | fram2 => exact encodeFrame_of_decodeFram (d := .fram2) h

/-- Three address bytes carry every 24-bit address. -/
theorem addr24_fits {n : Nat} (a : BitVec 24) (h : 3 ≤ n) : a.toNat < 256 ^ n :=
  calc a.toNat < 256 ^ 3 := a.isLt
    _ ≤ 256 ^ n := Nat.pow_le_pow_right (by norm_num) h

/-- Two carry every address below 2^16. -/
theorem addr_fits {n : Nat} (a : BitVec 24) (h : 3 ≤ n ∨ 2 ≤ n ∧ a.toNat < 65536) : a.toNat < 256 ^ n := by
  rcases h with h | ⟨h, ha⟩
  · exact addr24_fits a h
  · calc a.toNat < 256 ^ 2 := ha
      _ ≤ 256 ^ n := Nat.pow_le_pow_right (by norm_num) h

/-- Settles O1: the request words by their bit, the frames by their opcode and address bytes. -/
theorem decodeInvertsEncode : Obligations.DecodeInvertsEncode := by
  unfold Obligations.DecodeInvertsEncode
  intro c i h hwf
  refine ⟨fun hfit => ?_, fun hflash hfram => ?_⟩
  · cases htask : i.task with
    | some k =>
      simp only [encode, htask, decode, lowestBit_requestWord]
      exact congrArg _ (requestInstrs_task i k htask)
    | none =>
      simp only [encode, htask, decode]
      exact decodeFrame_encodeFrame h htask hwf hfit
  · cases i
    case flPp p words => exact decide_eq_true (addr24_fits _ hflash)
    case flSe p => exact decide_eq_true (addr24_fits _ hflash)
    case flBe p => exact decide_eq_true (addr24_fits _ hflash)
    case flRead a n => exact decide_eq_true (addr24_fits _ hflash)
    case frWrite d a bytes => exact decide_eq_true (addr_fits a (hfram d a (.inl ⟨bytes, rfl⟩)))
    case frRead d a n => exact decide_eq_true (addr_fits a (hfram d a (.inr ⟨n, rfl⟩)))
    all_goals rfl

end Sys2Proof

namespace Sys2Proof.Machine

/-- Settles O3: each word decodes by the arms of the decoder. -/
theorem specWordsDecode : Obligations.SpecWordsDecode := by
  unfold Obligations.SpecWordsDecode
  rintro c rfl
  refine ⟨rfl, rfl, rfl, rfl, rfl, rfl, rfl⟩

/-- Settles O10: the poll of the transport, whose busy bit is the Flash's. -/
theorem statusReadShowsBusy : Obligations.StatusReadShowsBusy := by
  unfold Obligations.StatusReadShowsBusy
  intro s
  exact ⟨_, _, rfl, transact_rdsr_busy s, rfl⟩

/-- A tick whose word decodes to `i` is `exec i` between the arbiter's steps and the tick's end (rules R91, R210). -/
theorem tick_of_decode {s : State} {i : Instr}
    (h : decode s.cfg.cmds (.request (selectedWord (arbitrate s))) = .ok i) : tick s = afterTick (exec i (arbitrate s)) := by
  obtain ⟨t, ht⟩ := exec_next i (arbitrate s)
  simp only [tick, h, ht, afterTick]

/-- Settles O4: the three ways a step without a frame on the wire goes. -/
theorem tickRunsDecodedInstruction : Obligations.TickRunsDecodedInstruction := by
  unfold Obligations.TickRunsDecodedInstruction
  intro s hbus
  refine ⟨fun i hin hdec => ?_, fun i between rest hin s' hs' hdec => ?_, fun a rest hin => step_input hbus hin⟩
  · simp only [step, hbus, hin]
    exact tick_of_decode hdec
  · subst hs'
    rw [step_input hbus hin]
    exact tick_of_decode hdec

end Sys2Proof.Machine

namespace Sys2Proof.Machine

/-! ### Frames outside rule R100 -/

/-- The device's answer to a frame outside rule R100 touches the received data and the count of free values alone (rule
R129). -/
theorem malformedFrame_eq (n : Nat) (s : State) : malformedFrame n s = { s with
    port := { s.port with rx := (malformedFrame n s).port.rx }
    env := { s.env with free := (malformedFrame n s).env.free } } := rfl

/-- Only the lengths of rule R100 make an instruction ill formed, and its device answers such a frame as one outside the
table. -/
theorem exec_illFormed {i : Instr} (s : State) (h : ¬i.WellFormed) : ∃ n, exec i s = .next (malformedFrame n s) := by
  cases i
  case flPp p words => exact ⟨0, congrArg _ (if_neg h)⟩
  case flRead a n => exact ⟨2 * n, congrArg _ (if_neg h)⟩
  case frWrite d a bytes => exact ⟨0, congrArg _ (if_neg h)⟩
  case frRead d a n => exact ⟨n, congrArg _ (if_neg h)⟩
  all_goals exact absurd rfl h

/-- A frame that its device does not understand (rule R129). -/
theorem step_of_unknown {s : State} {f : Frame} {e : DecodeError} (hf : s.port.bus = some f)
    (h : decode s.cfg.cmds (.frame f) = .error e) :
    step s = .next (malformedFrame f.nIn (s.setPort { s.port with bus := none })) := by
  simp only [step, hf, deviceStep, h]

/-- A frame that its device understands (rule R101). -/
theorem step_of_frame {s : State} {f : Frame} {i : Instr} (hf : s.port.bus = some f)
    (h : decode s.cfg.cmds (.frame f) = .ok i) : step s = exec i (s.setPort { s.port with bus := none }) := by
  simp only [step, hf, deviceStep, h]

/-- Settles O6: the two readings of a frame on the wire, and the frames that fail a length check. -/
theorem wireFrameRunsOrIsIgnored : Obligations.WireFrameRunsOrIsIgnored := by
  unfold Obligations.WireFrameRunsOrIsIgnored
  refine ⟨fun s f hf => ⟨fun i hi => step_of_frame hf hi, fun e he => ?_⟩, fun s i hi => ?_⟩
  · exact ⟨_, step_of_unknown hf he, malformedFrame_eq _ _⟩
  · obtain ⟨n, hn⟩ := exec_illFormed s hi
    exact ⟨_, hn, malformedFrame_eq n s⟩

/-! ### The supersede step (rule R212) -/

/-- The context that the supersede leaves a superseded task: the LOCK holder keeps its device operation and gets ABORT, any
other is retired at once. -/
def State.supersededCtx (s : State) (lo : Task) : Ctx :=
  if s.holdsLock lo = true then { s.ctxAt lo with abort := true }
  else { (s.ctxAt lo).ended with
    count := if (s.ctxAt lo).phase = .idle then 0 else (s.ctxAt lo).count, status := .aborted, phase := .idle }

theorem ctxAt_supersedeTask (lo j : Task) (s : State) :
    (supersedeTask lo s).ctxAt j = if j = lo then s.supersededCtx lo else s.ctxAt j := by
  rw [supersedeTask_eq]; exact ctxAt_setCtx s lo j _

theorem req_supersedeTask (lo : Task) (s : State) : (supersedeTask lo s).req = clearBit s.req lo := by
  rw [supersedeTask_eq]

theorem ack_supersedeTask (lo : Task) (s : State) : (supersedeTask lo s).ack = s.ack := by
  rw [supersedeTask_eq]

/-- Another task's supersede does not change what a task's own would leave. -/
theorem supersededCtx_supersedeTask {lo j : Task} (s : State) (h : j ≠ lo) :
    (supersedeTask lo s).supersededCtx j = s.supersededCtx j := by
  have hc : (supersedeTask lo s).ctxAt j = s.ctxAt j := by rw [ctxAt_supersedeTask, if_neg h]
  have hl : (supersedeTask lo s).holdsLock j = s.holdsLock j := by rw [supersedeTask_eq]; rfl
  simp only [State.supersededCtx, hc, hl]

/-- Superseding a list of different tasks acts on each of them once and on no other. -/
theorem foldl_supersedeTask : ∀ (l : List Task) (s : State), l.Nodup → ∀ t, t = l.foldl (fun s lo => supersedeTask lo s) s →
    t.ack = s.ack ∧ ∀ j, bitAt t.req j = (bitAt s.req j && !decide (j ∈ l)) ∧
      t.ctxAt j = if j ∈ l then s.supersededCtx j else s.ctxAt j
  | [], s, _, _, rfl => by simp
  | lo :: l, s, hl, _, rfl => by
    obtain ⟨hlo, hl⟩ := List.nodup_cons.mp hl
    obtain ⟨hack, hrest⟩ := foldl_supersedeTask l (supersedeTask lo s) hl _ rfl
    refine ⟨hack.trans (ack_supersedeTask lo s), fun j => ?_⟩
    obtain ⟨hreq, hctx⟩ := hrest j
    rw [List.foldl_cons, hreq, hctx, req_supersedeTask, ctxAt_supersedeTask]
    by_cases hj : j = lo
    · subst hj; simp [hlo]
    · simp [hj, supersededCtx_supersedeTask s hj]

/-- A step of the arbiter that keeps ACK writes REQ and the contexts alone. -/
theorem TaskOnly.eq_of_ack {s t : State} (h : TaskOnly s t) (ha : t.ack = s.ack) :
    t = { s with req := t.req, ctx := t.ctx } := by
  obtain ⟨hcfg, hsflt, hlockV, hlockK, hprot, hring, hflash, hfram1, hfram2, hport, henv⟩ := h
  cases s
  cases t
  subst hcfg hsflt hlockV hlockK hprot hring hflash hfram1 hfram2 hport henv ha
  rfl

/-- The set S of rule R212, its pairs spelled out. -/
theorem mem_supersededTasks_iff (s : State) (lo : Task) : lo ∈ supersededTasks s ↔
    (s.taskCfg lo).cls = .capture ∧ ∃ hi : Task, hi < lo ∧ (s.taskCfg hi).cls = .capture ∧
      bitAt s.req hi = true ∧ bitAt s.ack hi = false ∧ (s.ctxAt hi).phase = .idle ∧
      bitAt s.req lo = true ∧ bitAt s.ack lo = false ∧ (s.ctxAt lo).phase ≠ .finish := by
  rw [mem_supersededTasks]
  simp only [supersedes, isPending, Bool.and_eq_true, Bool.not_eq_true', beq_iff_eq, bne_iff_ne, and_assoc, and_left_comm]

/-- Settles O22: the tasks of the set S, each superseded once, and no other. -/
theorem supersedeRule : Obligations.SupersedeRule := by
  unfold Obligations.SupersedeRule
  intro s
  obtain ⟨hack, htasks⟩ := foldl_supersedeTask _ s (nodup_supersededTasks s) (supersede s) rfl
  refine ⟨_, _, (taskOnly_supersede s).eq_of_ack hack, fun lo S hS => ?_⟩
  obtain ⟨hreq, hctx⟩ := htasks lo
  have hmem : S = decide (lo ∈ supersededTasks s) :=
    Bool.eq_iff_iff.mpr (hS.trans ((mem_supersededTasks_iff s lo).symm.trans decide_eq_true_iff.symm))
  subst hmem
  refine ⟨hreq, hctx.trans ?_⟩
  simp only [decide_eq_true_eq, State.supersededCtx, State.holdsLock, Bool.and_eq_true, beq_iff_eq]
  rfl

end Sys2Proof.Machine

namespace Sys2Proof.Machine

/-! ### Records (rules R104, R142, R143, R170) -/

/-- A record is valid, whatever its payload (rule R143). -/
theorem validRecord_encodeRecord (p : List Word) : validRecord (encodeRecord p) p.length = true := by
  simp [validRecord, encodeRecord, complement]

/-- A record's bytes give its words back. -/
theorem recordOf_recordHalves (c : Ctx) (len : Nat) :
    recordOf (halvesBytes (recordHalves c len)) = encodeRecord (c.payload len) := by
  rw [recordOf, halvesOf_halvesBytes, recordHalves, wordsOf_flatMap]

/-- Halves `2i` and `2i + 1` are the high and the low half of word `i`. -/
theorem getD_flatMap_wordHalves : ∀ (ws : List Word) (i : Nat) (j : Fin 2), i < ws.length →
    (ws.flatMap wordHalves).getD (2 * i + j.val) 0 = (ws.getD i 0).extractLsb' (16 - 16 * j.val) 16
  | [], i, _, h => by simp at h
  | w :: ws, 0, j, _ => by
    match j with
    | 0 => simp [wordHalves]
    | 1 => simp [wordHalves]
  | w :: ws, i + 1, j, hi => by
    have := getD_flatMap_wordHalves ws i j (by simpa using hi)
    rw [show 2 * (i + 1) + j.val = 2 * i + j.val + 1 + 1 by omega]
    simpa [wordHalves] using this

/-- Byte `j` of a word, from the top: the byte of the half that holds it. -/
theorem wordByte_of_half (w : Word) (j : Fin 4) :
    (w.extractLsb' (16 - 16 * (j.val / 2)) 16).extractLsb' (8 - 8 * (j.val % 2)) 8 = w.extractLsb' (24 - 8 * j.val) 8 := by
  have hj := j.isLt
  refine BitVec.eq_of_getLsbD_eq fun i hi => ?_
  rw [BitVec.getLsbD_extractLsb', BitVec.getLsbD_extractLsb', BitVec.getLsbD_extractLsb',
    decide_eq_true hi, decide_eq_true (show 8 - 8 * (j.val % 2) + i < 16 by omega)]
  rw [show 16 - 16 * (j.val / 2) + (8 - 8 * (j.val % 2) + i) = 24 - 8 * j.val + i by omega]
  simp

/-- Word `i` of a record stands in bytes `4i..4i+3`, most significant byte first (rule R170). -/
theorem getD_recordBytes (ws : List Word) (i : Nat) (j : Fin 4) (h : i < ws.length) :
    (halvesBytes (ws.flatMap wordHalves)).getD (4 * i + j.val) 0 = ws[i].extractLsb' (24 - 8 * j.val) 8 := by
  have hj := j.isLt
  have hlen := length_flatMap_wordHalves ws
  have hbyte := getD_halvesBytes (ws.flatMap wordHalves) (2 * i + j.val / 2) ⟨j.val % 2, by omega⟩ (by omega)
  have hhalf := getD_flatMap_wordHalves ws i ⟨j.val / 2, by omega⟩ h
  rw [show 2 * (2 * i + j.val / 2) + j.val % 2 = 4 * i + j.val by omega] at hbyte
  rw [hbyte, hhalf, wordByte_of_half, List.getD_eq_getElem _ _ h]

/-- Settles O20: the shape of a record, its validity and its bytes. -/
theorem recordBytesBigEndian : Obligations.RecordBytesBigEndian := by
  unfold Obligations.RecordBytesBigEndian
  intro c len _ h62
  have hvalid := validRecord_encodeRecord (c.payload len)
  rw [length_payload c len h62] at hvalid
  refine ⟨rfl, hvalid, ?_, recordOf_recordHalves c len, fun i h j => getD_recordBytes _ i j h⟩
  rw [length_halvesBytes, length_recordHalves c len h62]
  omega

end Sys2Proof.Machine

namespace Sys2Proof.Machine

/-! ### The begin checks (rules R172, R174, R178, R230) -/

theorem framSel_eq_some (d : Dev) (e : FramSel) : framSel d = some e ↔ d = e.dev := by
  cases d <;> cases e <;> decide

theorem dev_ne_flash (d : FramSel) : d.dev ≠ .flash := by cases d <;> decide

theorem pageWriteRule_valid (k : Task) (s : State) :
    (pageWriteRule k).valid s = true ↔ 1 ≤ (s.ctxAt k).n.toNat ∧ (s.ctxAt k).n.toNat ≤ 128 := wordCountOk_iff _

theorem readRule_valid (k : Task) (s : State) : (readRule k).valid s = true ↔
    (∃ d, devOfSelector (s.ctxAt k).dev = some d ∧ d ∈ (s.taskCfg k).devs) ∧
      1 ≤ (s.ctxAt k).n.toNat ∧ (s.ctxAt k).n.toNat ≤ 128 := by
  simp only [readRule, Bool.and_eq_true, Option.isSome_iff_exists, selectedDev_eq_some, wordCountOk_iff]

theorem framWriteRule_valid (k : Task) (s : State) : (framWriteRule k).valid s = true ↔
    (∃ d : FramSel, devOfSelector (s.ctxAt k).dev = some d.dev ∧ d.dev ∈ (s.taskCfg k).devs) ∧
      1 ≤ (s.ctxAt k).n.toNat ∧ (s.ctxAt k).n.toNat ≤ 128 := by
  simp only [framWriteRule, singleOp, Bool.and_eq_true, Option.isSome_iff_exists, Option.bind_eq_some_iff,
    selectedDev_eq_some, wordCountOk_iff, framSel_eq_some]
  refine and_congr_left fun _ => exists_congr fun d => ?_
  exact ⟨fun ⟨_, h, e⟩ => e ▸ h, fun h => ⟨_, h, rfl⟩⟩

theorem recordWriteRule_valid (k : Task) (s : State) : (recordWriteRule k).valid s = true ↔
    (∃ d : FramSel, (s.taskCfg k).devs = [d.dev]) ∧ 1 ≤ (s.taskCfg k).len ∧ (s.taskCfg k).len ≤ s.cfg.lMax := by
  simp only [recordWriteRule, recordFram, Bool.and_eq_true, Option.isSome_iff_exists, Option.bind_eq_some_iff,
    taskDev_eq_some, recordLenOk_iff, framSel_eq_some]
  refine and_congr_left fun _ => exists_congr fun d => ?_
  exact ⟨fun ⟨_, h, e⟩ => e ▸ h, fun h => ⟨_, h, rfl⟩⟩

theorem recordReadRule_valid (k : Task) (s : State) : (recordReadRule k).valid s = true ↔
    (∃ d, (s.taskCfg k).devs = [d]) ∧ 1 ≤ (s.taskCfg k).len ∧ (s.taskCfg k).len ≤ s.cfg.lMax := by
  simp only [recordReadRule, Bool.and_eq_true, Option.isSome_iff_exists, taskDev_eq_some, recordLenOk_iff]

theorem calWriteRule_valid (k : Task) (s : State) : (calWriteRule k).valid s = true ↔
    (s.taskCfg k).devs = [.flash] ∧ 1 ≤ (s.taskCfg k).len ∧ (s.taskCfg k).len ≤ s.cfg.lMax := by
  simp only [calWriteRule, Bool.and_eq_true, beq_iff_eq, taskDev_eq_some, recordLenOk_iff]

/-! ### A refused begin -/

/-- The first slice of a task that its begin check refuses (rule R218). -/
theorem exec_refused {k : Task} {cls : OpClass} {s t : State} (hcls : (s.taskCfg k).cls = cls)
    (hidle : (s.ctxAt k).phase = .idle) (ht : (classRule k cls).start (beginTask k s) = t)
    (hv : ¬(classRule k cls).valid t = true) : exec (requestInstrs.get k) s = .next (finish k .invalidParam t) := by
  rw [exec_class k cls s hcls, slice_idle k _ s hidle, ht, if_neg hv]

/-- The state in which a class other than CAPTURE makes its begin check: a record read has set SRC = 3 (rule R174), no
other class writes a field of its own. -/
theorem start_beginTask (k : Task) {cls : OpClass} (s : State) (h : cls ≠ .capture) :
    (classRule k cls).start (beginTask k s) = { s with
      ctx := s.ctx.set k.val { s.begun k with src := if cls = .rrRead then .noRead else (s.ctxAt k).src } } := by
  cases cls
  case capture => exact absurd rfl h
  case rrRead => exact modCtx_beginTask k (fun c => { c with src := .noRead }) s
  all_goals exact beginTask_eq k s

/-- Settles O30: each clause contradicts the begin check of its class. -/
theorem invalidParameterEnds : Obligations.InvalidParameterEnds := by
  unfold Obligations.InvalidParameterEnds
  intro k cls s hcls hbad hidle
  have hcap : cls ≠ .capture := by
    rintro rfl
    simp at hbad
  have hstart := start_beginTask k s hcap
  rw [← hstart]
  refine exec_refused hcls hidle rfl fun hv => ?_
  generalize (classRule k cls).start (beginTask k s) = t at hv hstart
  have hctx : t.ctxAt k = { s.begun k with src := if cls = .rrRead then .noRead else (s.ctxAt k).src } :=
    ctxAt_of_ctx (by rw [hstart])
  have hn : (t.ctxAt k).n = (s.ctxAt k).n := by rw [hctx]; rfl
  have hdev : (t.ctxAt k).dev = (s.ctxAt k).dev := by rw [hctx]; rfl
  have hcfg : t.cfg = s.cfg := by rw [hstart]
  have hrow : t.taskCfg k = s.taskCfg k := by rw [State.taskCfg, hcfg]; rfl
  rw [← hn, ← hdev, ← hrow, ← hcfg] at hbad
  rcases hbad with ⟨hmem, hwords⟩ | ⟨rfl, hsel⟩ | ⟨rfl, hsel⟩ | ⟨hmem, hlen⟩ | ⟨rfl, hone⟩ | ⟨rfl, hone⟩ | ⟨rfl, hone⟩
  · simp only [List.mem_cons, List.not_mem_nil, or_false] at hmem
    rcases hmem with rfl | rfl | rfl
    · exact hwords ((pageWriteRule_valid k t).mp hv)
    · exact hwords ((readRule_valid k t).mp hv).2
    · exact hwords ((framWriteRule_valid k t).mp hv).2
  · obtain ⟨⟨d, hd, hin⟩, -⟩ := (readRule_valid k t).mp hv
    exact hsel d hd hin
  · obtain ⟨⟨d, hd, hin⟩, -⟩ := (framWriteRule_valid k t).mp hv
    exact (hsel d.dev hd).elim (· hin) (dev_ne_flash d)
  · simp only [List.mem_cons, List.not_mem_nil, or_false] at hmem
    rcases hmem with rfl | rfl | rfl
    · exact hlen ((recordWriteRule_valid k t).mp hv).2
    · exact hlen ((recordReadRule_valid k t).mp hv).2
    · exact hlen ((calWriteRule_valid k t).mp hv).2
  · obtain ⟨⟨d, hd⟩, -⟩ := (recordWriteRule_valid k t).mp hv
    exact dev_ne_flash d (hone d.dev hd)
  · obtain ⟨⟨d, hd⟩, -⟩ := (recordReadRule_valid k t).mp hv
    exact hone d hd
  · exact hone ((calWriteRule_valid k t).mp hv).1

end Sys2Proof.Machine

namespace Sys2Proof.Machine

/-! ### The command slice of a capture (rules R151, R192, R194) -/

/-- Sample-set `j` of the page that a capture's command slice sends: zeros below NZERO, else its ring slot as it stands when
it is read. -/
def State.pageSample (s : State) (c : Ctx) (j : Nat) : Sample :=
  if c.count.toNat + j < c.nzero.toNat then zeroSample s.cfg.setWords
  else (s.ringAfter (c.count.toNat + j - max c.nzero.toNat c.count.toNat)).read s.cfg.setWords
    ((c.rstart.toNat + (c.count.toNat + j)) % s.cfg.ringN)

/-- The words of that page. -/
def State.pageWords (s : State) (c : Ctx) : List Half := (List.range c.pend.toNat).flatMap (s.pageSample c)

/-- How many ring reads that page makes. -/
def Ctx.pageReads (c : Ctx) : Nat := c.count.toNat + c.pend.toNat - max c.nzero.toNat c.count.toNat

theorem pageData_eq (k : Task) (n : Nat) (s : State) : pageData k n s =
    ({ s with
        ring := s.ringAfter (s.ctxAt k).pageReads
        env := { s.env with between := s.env.between.drop (s.ctxAt k).pageReads } },
      s.pageWords (s.ctxAt k)) :=
  samplesFrom_eq k _ _ s

/-- Every slot of a well-formed ring holds S_W words, whatever pushes fall (rule R45). -/
theorem slots_sized {s : State} (h : s.memoryOk = true) : ∀ p ∈ s.ring.slots, p.2.length = s.cfg.setWords := by
  simp only [State.memoryOk, Ring.wf, Bool.and_eq_true, List.all_eq_true, beq_iff_eq] at h
  obtain ⟨⟨-, -, hslots⟩, -⟩ := h
  exact hslots

theorem length_pageSample {s : State} (c : Ctx) (j : Nat) (h : s.memoryOk = true) :
    (s.pageSample c j).length = s.cfg.setWords := by
  rw [State.pageSample]
  split
  · exact List.length_replicate
  · exact length_ringRead _ _ _ (sized_ringAfter s _ (slots_sized h))

theorem getD_pageSample (s : State) (c : Ctx) (j : Nat) {w : Nat} (hw : w < s.cfg.setWords) :
    (s.pageSample c j).getD w 0 =
      if c.count.toNat + j < c.nzero.toNat then 0
      else ((s.ringAfter (c.count.toNat + j - max c.nzero.toNat c.count.toNat)).read s.cfg.setWords
        ((c.rstart.toNat + (c.count.toNat + j)) % s.cfg.ringN)).getD w 0 := by
  rw [State.pageSample]
  split
  · simp [zeroSample, hw]
  · rfl

/-- The page is PEND groups of S_W words. -/
theorem pageWords_groups {s : State} (c : Ctx) (h : s.memoryOk = true) :
    (s.pageWords c).length = c.pend.toNat * s.cfg.setWords ∧
    ∀ j w, j < c.pend.toNat → w < s.cfg.setWords →
      (s.pageWords c).getD (j * s.cfg.setWords + w) 0 = (s.pageSample c j).getD w 0 :=
  getD_flatMap_range (s.pageSample c) s.cfg.setWords c.pend.toNat 0 fun j _ => length_pageSample c j h

/-- The page is a program's data: 1 to 128 words (rules R9, R123). -/
theorem illFormed_page {s : State} (c : Ctx) (p : Packed) (hpend : c.pend ≠ 0) (hp : s.cfg.Ok) (h : s.memoryOk = true) :
    (Instr.flPp p (s.pageWords c)).illFormed = none := by
  obtain ⟨hlen, -⟩ := pageWords_groups c h
  obtain ⟨hw1, hw7⟩ := hp.setWords
  have hpos : 0 < c.pend.toNat := Nat.pos_of_ne_zero fun e => hpend (BitVec.eq_of_toNat_eq e)
  have hle : c.pend.toNat ≤ 7 := by have := c.pend.isLt; omega
  refine illFormed_flPp p _ ?_ ?_ <;> rw [hlen]
  · exact Nat.mul_pos hpos hw1
  · exact (Nat.mul_le_mul_right _ hle).trans hw7

/-- Settles O48: the erase frame, and the page frame with its ring reads. -/
theorem captureCommandSlice : Obligations.CaptureCommandSlice := by
  unfold Obligations.CaptureCommandSlice
  rintro k s c p n rfl hcls hphase hfs
  have hslice : exec (requestInstrs.get k) s = .next (commandStep k (captureRule k) s) := by
    rw [exec_class k .capture s hcls]
    exact congrArg _ (slice_command k _ s hphase hfs)
  refine ⟨fun hop => ?_, fun hop hpend hp hmem => ?_⟩
  · rw [hslice, commandStep_se k _ s p hop, transact_flSe_state]
    rfl
  · obtain ⟨hlen, hget⟩ := pageWords_groups (s.ctxAt k) hmem
    refine ⟨s.pageWords (s.ctxAt k), (s.ctxAt k).pageReads, rfl, ?_, hlen,
      fun j w hj hw => (hget j w hj hw).trans (getD_pageSample s _ j hw)⟩
    have hdata : (captureRule k).data n s = _ := pageData_eq k n s
    rw [hslice, commandStep_prog k _ s p n hop, hdata, transact_flPp_state p _ _ (illFormed_page _ p hpend hp hmem)]
    rfl

end Sys2Proof.Machine

namespace Sys2Proof.Machine

/-! ### A quiet arbiter (rules R210-R216) -/

/-- Where no capture is asked for, none is superseded (rule R212). -/
theorem supersede_quiet {s : State} (h : ∀ j, (s.taskCfg j).cls = .capture → bitAt s.req j = false) : supersede s = s := by
  have hnone : supersededTasks s = [] := by
    refine List.eq_nil_iff_forall_not_mem.mpr fun lo hlo => ?_
    obtain ⟨hcls, -, -, -, -, -, -, hreq, -⟩ := (mem_supersededTasks_iff s lo).mp hlo
    rw [h lo hcls] at hreq
    cases hreq
  rw [supersede, hnone, List.foldl_nil]

/-- Where every task in progress is still asked for, none is withdrawn (rule R216). -/
theorem withdrawAll_quiet {s : State} (h : ∀ j, bitAt s.req j = true ∨ (s.ctxAt j).phase = .idle) : withdrawAll s = s := by
  have hnone (j : Task) : isWithdrawn s j = false := by
    rw [isWithdrawn]
    rcases h j with h | h <;> simp [h]
  have hctx : (Vector.ofFn fun j => if isWithdrawn s j then (s.ctxAt j).withdrawn else s.ctxAt j) = s.ctx := by
    refine Vector.ext fun j hj => ?_
    rw [Vector.getElem_ofFn, hnone]
    rfl
  rw [withdrawAll, hctx]

/-- Steps 1-4 of a tick under both premises: the release alone (rule R211). -/
theorem arbitrate_quiet {s : State} (hcap : ∀ j, (s.taskCfg j).cls = .capture → bitAt s.req j = false)
    (hidle : ∀ j, bitAt s.req j = true ∨ (s.ctxAt j).phase = .idle) :
    arbitrate s = { s with ack := releasedAck s.req s.ack, port := { s.port with rx := .none, sent := [] } } :=
  (congrArg withdrawAll
    (supersede_quiet (s := release (s.setPort { s.port with rx := .none, sent := [] })) hcap)).trans (withdrawAll_quiet hidle)

/-! ### A run of one task -/

/-- What the run of one task needs to know of a state. -/
structure Scene where
  lock   : Bool
  /-- The context of the running task. -/
  ctx    : Ctx
  /-- The contexts of the other tasks. -/
  others : Task → Ctx
  prot   : Bool
  flash  : Flash
  fram   : FramSel → Fram

/-- Task `w` alone is asked for and not yet acknowledged, no other is in progress, `inputs` come next, and the rest is as the
scene `v` shows it. -/
structure Solo (p : Params) (w : Task) (inputs : List Action) (v : Scene) (s : State) : Prop where
  cfg     : s.cfg = p
  bus     : s.port.bus = none
  inputs  : s.env.inputs = inputs
  req     : s.req = requestWord w
  ack     : s.ack = 0
  idle    : ∀ j, j ≠ w → (v.others j).phase = .idle
  others  : ∀ j, j ≠ w → s.ctxAt j = v.others j
  lockV   : s.lockV = v.lock
  lockK   : s.lockV = true → s.lockK = w
  ctx     : s.ctxAt w = v.ctx
  prot    : s.prot = v.prot
  flash   : s.flash = v.flash
  fram    : ∀ d, s.fram d = v.fram d

/-- The next step is a tick that runs one slice of task `w`, from the scene `v`. -/
def NextSlice (p : Params) (w : Task) (rest : List Action) (v : Scene) (s : State) : Prop :=
  ∃ u, Solo p w rest v u ∧ step s = .next (endTick (slice w (classRule w (p.tasks.get w).cls) u))

namespace Solo
variable {p : Params} {w : Task} {inputs : List Action} {v : Scene} {s : State}

theorem taskCfg (h : Solo p w inputs v s) (k : Task) : s.taskCfg k = p.tasks.get k := by
  rw [State.taskCfg, h.cfg]

theorem scan (h : Solo p w inputs v s) : s.scan = some w := by
  rw [State.scan, h.req, h.ack, lowestBit_some]
  simp only [bitAt_pendingWord, bitAt_requestWord]
  exact ⟨by simp [bitAt], fun j hj => by simp [Fin.ne_of_lt hj]⟩

theorem sel (h : Solo p w inputs v s) : s.sel = some w := by
  rw [State.sel]
  split
  · rename_i hl; rw [h.lockK hl]
  · exact h.scan

/-! Each small operation of a slice changes its part of the scene. -/

theorem transact (h : Solo p w inputs v s) {i : Instr} {fl : Flash} {fr : FramSel → Fram}
    (hfl : (transact i s).flash = fl) (hfr : ∀ d, (transact i s).fram d = fr d) :
    Solo p w inputs { v with flash := fl, fram := fr } (transact i s) where
  cfg     := (transact_cfg i s).trans h.cfg
  bus     := (transact_bus i s).trans h.bus
  inputs  := (transact_inputs i s).trans h.inputs
  req     := (transact_req i s).trans h.req
  ack     := (transact_ack i s).trans h.ack
  idle    := h.idle
  others  := fun j hj => (transact_ctxAt i s j).trans (h.others j hj)
  lockV   := (transact_lockV i s).trans h.lockV
  lockK   := by rw [transact_lockV, transact_lockK]; exact h.lockK
  ctx     := (transact_ctxAt i s w).trans h.ctx
  prot    := (transact_prot i s).trans h.prot
  flash   := hfl
  fram    := hfr

theorem takeLock (h : Solo p w inputs v s) : Solo p w inputs { v with lock := true } (s.takeLock w) :=
  ⟨h.cfg, h.bus, h.inputs, h.req, h.ack, h.idle, h.others, rfl, fun _ => rfl, h.ctx, h.prot, h.flash,
    fun d => (fram_takeLock s w d).trans (h.fram d)⟩

theorem dropLock (h : Solo p w inputs v s) : Solo p w inputs { v with lock := false } s.dropLock :=
  ⟨h.cfg, h.bus, h.inputs, h.req, h.ack, h.idle, h.others, rfl, nofun, h.ctx, h.prot, h.flash,
    fun d => (fram_dropLock s d).trans (h.fram d)⟩

theorem setProt (h : Solo p w inputs v s) (b : Bool) : Solo p w inputs { v with prot := b } (s.setProt b) :=
  ⟨h.cfg, h.bus, h.inputs, h.req, h.ack, h.idle, h.others, h.lockV, h.lockK, h.ctx, rfl, h.flash,
    fun d => (fram_setProt s b d).trans (h.fram d)⟩

theorem modCtx (h : Solo p w inputs v s) (f : Ctx → Ctx) :
    Solo p w inputs { v with ctx := f v.ctx } (s.modCtx w f) :=
  ⟨h.cfg, h.bus, h.inputs, h.req, h.ack, h.idle,
    fun j hj => by rw [ctxAt_modCtx, if_neg hj, h.others j hj], h.lockV, h.lockK,
    by rw [ctxAt_modCtx_self, h.ctx], h.prot, h.flash, fun d => (fram_modCtx s w f d).trans (h.fram d)⟩

/-- A completed device operation lets LOCK go and stands at its op boundary. -/
theorem endedOp (h : Solo p w inputs v s) : Solo p w inputs { v with lock := false, ctx := { v.ctx with fs := .boundary } }
    ((s.dropLock).setFs w .boundary) :=
  h.dropLock.modCtx fun c => { c with fs := .boundary }

theorem endTick (h : Solo p w inputs v s) : Solo p w inputs v (endTick s) := by
  rw [endTick_eq]
  exact ⟨h.cfg, h.bus, h.inputs, h.req, h.ack, h.idle, h.others, h.lockV, h.lockK, h.ctx, h.prot, h.flash,
    fun d => (by cases d <;> rfl : _ = s.fram d).trans (h.fram d)⟩

/-- The Flash's completion step takes place between two ticks. -/
theorem flashDone {rest : List Action} (h : Solo p w (scriptDone :: rest) v s) {op : FlashOp} (hb : v.flash.busy = true)
    (ho : v.flash.op = some op) : ∃ t, step s = .next t ∧
      Solo p w rest { v with flash := ⟨op.apply p v.flash.array, false, false, none, v.flash.bp⟩ } t := by
  rw [← h.flash] at hb ho ⊢
  rw [step_input h.bus h.inputs]
  refine ⟨_, rfl, ?_⟩
  rw [flashDone_busy (s := s.setEnv { s.env with inputs := rest }) hb ho]
  exact ⟨h.cfg, h.bus, rfl, h.req, h.ack, h.idle, h.others, h.lockV, h.lockK, h.ctx, h.prot,
    by rw [← h.cfg]; rfl, fun d => (by cases d <;> rfl : _ = s.fram d).trans (h.fram d)⟩

/-- A `TICK` is one slice of the task, in the same scene (rule R210). -/
theorem ticked {rest : List Action} (h : Solo p w (scriptTick :: rest) v s)
    (hcap : (p.tasks.get w).cls ≠ .capture) : NextSlice p w rest v s := by
  have hin : Solo p w rest v (s.setEnv { s.env with inputs := rest, between := [] }) :=
    ⟨h.cfg, h.bus, rfl, h.req, h.ack, h.idle, h.others, h.lockV, h.lockK, h.ctx, h.prot, h.flash,
      fun d => (fram_setEnv s _ d).trans (h.fram d)⟩
  generalize ht : s.setEnv { s.env with inputs := rest, between := [] } = t at hin
  have hstep : step s = tick t := by rw [step_input h.bus h.inputs, ← ht]; rfl
  have harb : arbitrate t = { t with port := { t.port with rx := .none, sent := [] } } := by
    rw [arbitrate_quiet]
    · rw [show releasedAck t.req t.ack = t.ack by rw [hin.ack]; exact BitVec.zero_and]
    · intro j hj
      rw [hin.req, bitAt_requestWord]
      refine decide_eq_false fun e => hcap ?_
      rw [← hj, hin.taskCfg, e]
    · intro j
      by_cases e : j = w
      · exact .inl (by rw [hin.req, bitAt_requestWord, e]; exact decide_eq_true rfl)
      · exact .inr (by rw [hin.others j e]; exact hin.idle j e)
  have hu : Solo p w rest v (arbitrate t) := by
    rw [harb]
    exact ⟨hin.cfg, hin.bus, hin.inputs, hin.req, hin.ack, hin.idle, hin.others, hin.lockV, hin.lockK, hin.ctx,
      hin.prot, hin.flash, fun d => (by cases d <;> rfl : _ = t.fram d).trans (hin.fram d)⟩
  refine ⟨_, hu, ?_⟩
  rw [hstep, tick_eq, hu.sel]
  simp only [taskRule, hu.taskCfg]

/-- A slice of a device operation's write-enable step to the Flash (rule R150). -/
theorem startFop (h : Solo p w inputs v s) (hb : v.flash.busy = false) (op : DeviceOp) :
    Solo p w inputs { v with
      lock := true, ctx := { v.ctx with polls := 0, fs := .enabled, op := op }, flash := { v.flash with wel := true } }
      (startFop w op s) :=
  ((h.transact (by rw [flWren_flash, h.flash, if_neg (by simp [hb])]) fun d => (flWren_fram s d).trans (h.fram d)).takeLock).modCtx
    fun c => { c with polls := 0, fs := .enabled, op := op }

/-- The same to an FRAM (rule R158). -/
theorem startWop (h : Solo p w inputs v s) (d : FramSel) (op : DeviceOp) :
    Solo p w inputs { v with
      lock := true, ctx := { v.ctx with fs := .enabled, op := op }
      fram := Function.update v.fram d { v.fram d with wel := true } } (startWop w d op s) := by
  refine ((h.transact (fl := v.flash) (fr := Function.update v.fram d { v.fram d with wel := true })
    ((frWren_flash d s).trans h.flash) fun e => ?_).takeLock).modCtx fun c => { c with fs := .enabled, op := op }
  rw [frWren_fram, Function.update_apply, h.fram]
  split
  · rename_i e; rw [e]
  · rfl

/-- A write frame to an enabled FRAM (rules R77, R132). -/
theorem frWrite (h : Solo p w inputs v s) {d : FramSel} {a : FramAddr} {bytes : List Byte}
    (hwf : (Instr.frWrite d a bytes).illFormed = none) (hwel : (v.fram d).wel = true) :
    Solo p w inputs { v with
      fram := Function.update v.fram d ⟨(v.fram d).array.writeWrap (p.framBytes d.dev) a.toNat bytes, false⟩ }
      (Machine.transact (.frWrite d a bytes) s) := by
  refine h.transact (fl := v.flash) ((frWrite_flash d a bytes s).trans h.flash) fun e => ?_
  rw [frWrite_fram, if_pos hwf, framAfterWrite, h.fram, h.cfg, Function.update_apply]
  by_cases he : e = d
  · subst he; simp [hwel]
  · simp [he]

/-- A task that begins and passes its begin check goes on as one at its op boundary (rule R218). -/
theorem begun {rest : List Action} (h : NextSlice p w rest v s) (hidle : v.ctx.phase = .idle)
    (hstart : (classRule w (p.tasks.get w).cls).start = id)
    (hvalid : ∀ u, u.cfg = p → (classRule w (p.tasks.get w).cls).valid u = true) :
    NextSlice p w rest { v with ctx := { v.ctx with phase := .run, opi := 0, fs := .boundary, polls := 0 } } s := by
  obtain ⟨u, hu, hstep⟩ := h
  have hb : Solo p w rest { v with ctx := { v.ctx with phase := .run, opi := 0, fs := .boundary, polls := 0 } }
      (beginTask w u) := hu.modCtx fun c => { c with phase := .run, opi := 0, fs := .boundary, polls := 0 }
  refine ⟨_, hb, hstep.trans ?_⟩
  rw [slice_idle w _ u (by rw [hu.ctx, hidle]), hstart, if_pos (hvalid (id (beginTask w u)) hu.cfg),
    slice_run w _ (beginTask w u) (by rw [hb.ctx])]
  rfl

/-- A device operation completes: after `n` steps the task stands at the commit of its class (rule R217), in the scene
`v`. -/
def Completes (p : Params) (w : Task) (rest : List Action) (v : Scene) (n : Nat) (s : State) : Prop :=
  ∃ u, Solo p w rest v u ∧
    Host.Core.run core n s = .next (Machine.endTick (opComplete w (classRule w (p.tasks.get w).cls) u))

end Solo

/-! ### Runs -/

theorem run_succ {n : Nat} {s t : State} (h : step s = .next t) :
    Host.Core.run core (n + 1) s = Host.Core.run core n t := by
  simp only [Host.Core.run, show core.step s = .next t from h]

theorem run_one {s t : State} (h : step s = .next t) : Host.Core.run core 1 s = .next t := run_succ h

/-- A run goes on from where its first part ends. -/
theorem run_add (n : Nat) : ∀ (m : Nat) {s t : State}, Host.Core.run core m s = .next t →
    Host.Core.run core (m + n) s = Host.Core.run core n t
  | 0, s, t, h => by
    cases h
    rw [Nat.zero_add]
  | m + 1, s, t, h => by
    rw [Nat.add_right_comm]
    simp only [Host.Core.run] at h ⊢
    cases hs : core.step s with
    | next u =>
      rw [hs] at h
      exact run_add n m h
    | fault r => cases r
    | refused r =>
      rw [hs] at h
      cases h

/-- The bytes of a record with the payload `ws` (rules R104, R170). -/
def recordOut (ws : List Word) : List Byte := halvesBytes ((encodeRecord ws).flatMap wordHalves)

theorem length_recordOut (ws : List Word) : (recordOut ws).length = 2 * recordWordCount ws.length := by
  rw [recordOut, length_halvesBytes, length_flatMap_wordHalves, length_encodeRecord, recordWordCount_eq]

theorem recordOf_recordOut (ws : List Word) : recordOf (recordOut ws) = encodeRecord ws := by
  rw [recordOf, recordOut, halvesOf_halvesBytes, wordsOf_flatMap]

/-- The Flash operation that a step of a calibration write asks for, where `ws` is the payload (rules R150, R151, R179). -/
inductive CarriesOut (ws : List Word) : DeviceOp → FlashOp → Prop
  | erase (a : Packed) : CarriesOut ws (.se a) (.eraseSector (sectorOf a))
  | program (a : Packed) (n : Nat) : CarriesOut ws (.prog a n) (.program (byteAddrOf a) (recordOut ws))

/-- The operation of a calibration write at each OPI (rule R179). -/
def calOp (p : Params) (c : TaskCfg) (opi : BitVec 4) : DeviceOp :=
  if opi = 0 then .se (flashCopyAddr p c false)
  else if opi = 1 then .prog (flashCopyAddr p c false) (recordWordCount c.len)
  else if opi = 2 then .se (flashCopyAddr p c true)
  else if opi = 3 then .prog (flashCopyAddr p c true) (recordWordCount c.len)
  else .protect

theorem calWriteOp_eq (k : Task) (s : State) : calWriteOp k s = calOp s.cfg (s.taskCfg k) (s.ctxAt k).opi := rfl

/-- An idle, enabled and unprotected Flash takes every command (rules R123-R125). -/
theorem flashAfter_taken (p : Params) (op : FlashOp) {f : Flash} (hb : f.busy = false) (hw : f.wel = true)
    (hp : f.bp = false) : flashAfter p op f = { f with op := some op, busy := true } := by
  simp [flashAfter, hb, hw, hp]

/-- The Flash's array with the sector of `a` erased and `bytes` programmed at the page `a`. -/
def Memory.rewritten (p : Params) (a : Packed) (bytes : List Byte) (m : Memory) : Memory :=
  (FlashOp.program (byteAddrOf a) bytes).apply p ((FlashOp.eraseSector (sectorOf a)).apply p m)

/-- The scene with `bytes` written to FRAM `d` at `a`. -/
def Scene.wrote (v : Scene) (p : Params) (d : FramSel) (a : FramAddr) (bytes : List Byte) : Scene :=
  { v with fram := Function.update v.fram d ⟨(v.fram d).array.writeWrap (p.framBytes d.dev) a.toNat bytes, false⟩ }

namespace Solo
variable {p : Params} {w : Task} {inputs rest : List Action} {v : Scene} {s : State} {d : FramSel} {ws : List Word}

/-! ### The two copies of a record in an FRAM (rules R158, R173) -/

/-- The address of a copy of task `w`'s record in FRAM `d` (rule R170). -/
def framAt (p : Params) (w : Task) (d : FramSel) (second : Bool) : FramAddr :=
  framCopyAddr p (p.tasks.get w) d.dev second

/-- The slice that begins the write of a copy. -/
theorem framStarts (h : Solo p w inputs v s) (hdevs : (p.tasks.get w).devs = [d.dev]) (hphase : v.ctx.phase = .run)
    (hfs : v.ctx.fs = .boundary) : slice w (classRule w .rrWrite) s =
      Machine.startWop w d (.fram d (framAt p w d (v.ctx.opi != 0)) (recordWordCount (p.tasks.get w).len)) s := by
  have hop : recordWriteOp w s = .fram d (framAt p w d (v.ctx.opi != 0)) (recordWordCount (p.tasks.get w).len) := by
    rw [recordWriteOp, h.taskCfg, recordFram_eq_some _ d hdevs, h.cfg, h.ctx]
    rfl
  rw [slice_boundary w _ s (by rw [h.ctx, hphase]) (by rw [h.ctx, hfs]), ← hop]
  show startOp w (recordWriteOp w s) s = _
  rw [hop]
  rfl

/-- The slice that writes it. -/
theorem framWrites (h : Solo p w inputs v s) {a : FramAddr} {n : Nat} (hws : v.ctx.payload (p.tasks.get w).len = ws)
    (hlen : ws.length ≤ 62) (hphase : v.ctx.phase = .run) (hfs : v.ctx.fs = .enabled) (hop : v.ctx.op = .fram d a n)
    (hwel : (v.fram d).wel = true) : ∃ u, slice w (classRule w .rrWrite) s = opComplete w (recordWriteRule w) u ∧
      Solo p w inputs { v.wrote p d a (recordOut ws) with lock := false, ctx := { v.ctx with fs := .boundary } } u := by
  have hwf : (Instr.frWrite d a (recordOut ws)).illFormed = none := by
    have hout := length_recordOut ws
    rw [recordWordCount_eq] at hout
    exact illFormed_frWrite _ _ _ (by omega) (by omega)
  refine ⟨_, ?_, (h.frWrite hwf hwel).endedOp⟩
  rw [slice_command w _ s (by rw [h.ctx, hphase]) (by rw [h.ctx, hfs]), commandStep_fram w _ s d a n (by rw [h.ctx, hop])]
  show endOp w _ (Machine.transact (.frWrite d a (halvesBytes (recordHalves (s.ctxAt w) (s.taskCfg w).len))) s) = _
  rw [h.ctx, h.taskCfg, recordHalves, hws]
  rfl

/-- Both slices of a copy's write, one after the other. -/
theorem framCopy (h : NextSlice p w (scriptTick :: rest) v s) (hcls : (p.tasks.get w).cls = .rrWrite)
    (hdevs : (p.tasks.get w).devs = [d.dev]) (hws : v.ctx.payload (p.tasks.get w).len = ws) (hlen : ws.length ≤ 62)
    (hphase : v.ctx.phase = .run) (hfs : v.ctx.fs = .boundary) {op : DeviceOp}
    (hop : op = .fram d (framAt p w d (v.ctx.opi != 0)) (recordWordCount (p.tasks.get w).len)) :
    Completes p w rest { v.wrote p d (framAt p w d (v.ctx.opi != 0)) (recordOut ws) with
      lock := false, ctx := { v.ctx with fs := .boundary, op := op } } 2 s := by
  obtain ⟨u, hu, hstep⟩ := h
  rw [hcls, hu.framStarts hdevs hphase hfs, ← hop] at hstep
  obtain ⟨u', hu', hstep'⟩ := (hu.startWop d op).endTick.ticked (by rw [hcls]; decide)
  obtain ⟨u'', hslice, hu''⟩ := hu'.framWrites hws hlen hphase rfl hop (by simp)
  rw [hcls, hslice] at hstep'
  refine ⟨u'', ?_, ?_⟩
  · simpa [Scene.wrote, Function.update_idem] using hu''
  · rw [hcls]
    exact (run_succ hstep).trans (run_one hstep')

theorem asked (h : Solo p w inputs v s) : bitAt s.req w = true := by
  rw [h.req, bitAt_requestWord]
  exact decide_eq_true rfl

/-- After the primary copy a record write goes on at OPI = 1. -/
theorem opComplete_primary (h : Solo p w inputs v s) (hopi : v.ctx.opi = 0) :
    opComplete w (classRule w .rrWrite) s = s.modCtx w fun c => { c with opi := 1 } := by
  have hc : (recordWriteRule w).commit s = (s.modCtx w fun c => { c with opi := 1 }, none) :=
    if_pos (by rw [h.ctx, hopi])
  rw [classRule, opComplete_plain w _ s rfl, hc]
  exact if_pos h.asked

/-- After the secondary copy it ends OK. -/
theorem opComplete_secondary (h : Solo p w inputs v s) (hopi : v.ctx.opi ≠ 0) :
    opComplete w (classRule w .rrWrite) s = finish w .ok s := by
  have hc : (recordWriteRule w).commit s = (s, some .ok) := if_neg (by rw [h.ctx]; exact hopi)
  rw [classRule, opComplete_plain w _ s rfl, hc]

/-! ### A record written to an FRAM -/

/-- The task stands at the end of a write: after `n` steps it finishes OK, LOCK free, in the scene `v`. -/
def EndsOk (p : Params) (w : Task) (rest : List Action) (v : Scene) (n : Nat) (s : State) : Prop :=
  ∃ u, Solo p w rest v u ∧ v.lock = false ∧ Host.Core.run core n s = .next (Machine.endTick (finish w .ok u))

/-- A record write from its op boundary: both copies, in four ticks (rule R173). -/
theorem framRecord (h : NextSlice p w (scriptTick :: scriptTick :: scriptTick :: rest) v s)
    (hcls : (p.tasks.get w).cls = .rrWrite) (hdevs : (p.tasks.get w).devs = [d.dev])
    (hws : v.ctx.payload (p.tasks.get w).len = ws) (hlen : ws.length ≤ 62)
    (hphase : v.ctx.phase = .run) (hfs : v.ctx.fs = .boundary) (hopi : v.ctx.opi = 0) :
    ∃ c, EndsOk p w rest { (v.wrote p d (framAt p w d false) (recordOut ws)).wrote p d (framAt p w d true) (recordOut ws)
      with lock := false, ctx := c } 4 s := by
  obtain ⟨u, hu, hrun⟩ := framCopy h hcls hdevs hws hlen hphase hfs rfl
  rw [hcls] at hrun
  rw [hu.opComplete_primary hopi] at hrun
  have hnext := (hu.modCtx fun c => { c with opi := 1 }).endTick.ticked (by rw [hcls]; decide)
  obtain ⟨u', hu', hrun'⟩ := framCopy hnext hcls hdevs hws hlen hphase rfl rfl
  rw [hcls] at hrun'
  rw [hu'.opComplete_secondary (show (1 : BitVec 4) ≠ 0 by decide)] at hrun'
  rw [hopi] at hu'
  exact ⟨_, u', hu', rfl, (run_add 2 2 hrun).trans hrun'⟩

/-! ### The operations of a calibration write (rules R150-R153, R179, R180) -/

/-- The slice that begins an operation. -/
theorem calStarts (h : Solo p w inputs v s) (hphase : v.ctx.phase = .run) (hfs : v.ctx.fs = .boundary)
    (hprot : v.prot = false) :
    slice w (classRule w .calWrite) s = Machine.startFop w (calOp p (p.tasks.get w) v.ctx.opi) s := by
  rw [slice_boundary w _ s (by rw [h.ctx, hphase]) (by rw [h.ctx, hfs])]
  show calWriteBoundary w s = _
  rw [calWriteBoundary_pass w s (.inl (by rw [h.prot, hprot])), calWriteOp_eq, h.taskCfg, h.cfg, h.ctx]

/-- The slice that sends its command. -/
theorem calCommands (h : Solo p w inputs v s) {op : DeviceOp} {fop : FlashOp} (hfop : CarriesOut ws op fop)
    (hws : v.ctx.payload (p.tasks.get w).len = ws) (hlen : ws.length ≤ 62) (hphase : v.ctx.phase = .run)
    (hfs : v.ctx.fs = .enabled) (hop : v.ctx.op = op) (hb : v.flash.busy = false) (hwel : v.flash.wel = true)
    (hbp : v.flash.bp = false) : Solo p w inputs { v with
      ctx := { v.ctx with fs := .issued }, flash := { v.flash with op := some fop, busy := true } }
      (slice w (classRule w .calWrite) s) := by
  rw [slice_command w _ s (by rw [h.ctx, hphase]) (by rw [h.ctx, hfs])]
  cases hfop with
  | erase a =>
    rw [commandStep_se w _ s a (by rw [h.ctx, hop])]
    exact (h.transact (by rw [flSe_flash, h.flash, flashAfter_taken _ _ hb hwel hbp])
      fun d => (flSe_fram a s d).trans (h.fram d)).modCtx fun c => { c with fs := .issued }
  | program a n =>
    have hwords : recordHalves (s.ctxAt w) (s.taskCfg w).len = (encodeRecord ws).flatMap wordHalves := by
      rw [h.ctx, h.taskCfg, recordHalves, hws]
    have hwf : (Instr.flPp a ((encodeRecord ws).flatMap wordHalves)).illFormed = none := by
      have hout := length_flatMap_wordHalves (encodeRecord ws)
      rw [length_encodeRecord] at hout
      exact illFormed_flPp _ _ (by omega) (by omega)
    rw [commandStep_prog w _ s a n (by rw [h.ctx, hop])]
    show Solo p w inputs _ ((Machine.transact (.flPp a (recordHalves (s.ctxAt w) (s.taskCfg w).len)) s).setFs w .issued)
    rw [hwords]
    exact (h.transact (by rw [flPp_flash, if_pos hwf, h.flash, flashAfter_taken _ _ hb hwel hbp])
      fun d => (flPp_fram a _ s d).trans (h.fram d)).modCtx fun c => { c with fs := .issued }

/-- The poll that finds it done. -/
theorem calPolls (h : Solo p w inputs v s) (hphase : v.ctx.phase = .run) (hfs : v.ctx.fs = .issued)
    (hb : v.flash.busy = false) : ∃ u,
    slice w (classRule w .calWrite) s = opComplete w (classRule w .calWrite) u ∧
      Solo p w inputs { v with lock := false, ctx := { v.ctx with polls := 0, fs := .boundary } } u := by
  refine ⟨_, ?_, ((h.transact (fl := v.flash) (fr := v.fram) ((flRdsr_flash s).trans h.flash)
    fun d => (flRdsr_fram s d).trans (h.fram d)).modCtx fun c => { c with polls := 0 }).endedOp⟩
  rw [slice_poll w _ s (by rw [h.ctx, hphase]) (by rw [h.ctx, hfs]), pollStep]
  rw [transact_rdsr_busy, h.flash, hb]
  rfl

/-- After each of its first four operations a calibration write goes on at the next OPI. -/
theorem opComplete_calStep (h : Solo p w inputs v s) (hopi : v.ctx.opi.toNat < 4) :
    opComplete w (classRule w .calWrite) s = s.modCtx w fun c => { c with opi := c.opi + 1 } := by
  have hc : (calWriteRule w).commit s = (s.modCtx w fun c => { c with opi := c.opi + 1 }, none) :=
    if_pos (by rw [h.ctx]; exact hopi)
  rw [classRule, opComplete_plain w _ s rfl, hc]
  exact if_pos h.asked

/-- After the protect step it sets PROT and ends OK (rule R180). -/
theorem opComplete_calProtect (h : Solo p w inputs v s) (hopi : ¬v.ctx.opi.toNat < 4) :
    opComplete w (classRule w .calWrite) s = finish w .ok (s.setProt true) := by
  have hc : (calWriteRule w).commit s = (s.setProt true, some .ok) := if_neg (by rw [h.ctx]; exact hopi)
  rw [classRule, opComplete_plain w _ s rfl, hc]

/-- One erase or program: three ticks, and the Flash's completion after the second (rule R109, `FAST`). -/
theorem calStep (i : BitVec 4) (h : NextSlice p w (scriptTick :: scriptDone :: scriptTick :: rest) v s)
    (hcls : (p.tasks.get w).cls = .calWrite) (hws : v.ctx.payload (p.tasks.get w).len = ws) (hlen : ws.length ≤ 62)
    (hphase : v.ctx.phase = .run) (hfs : v.ctx.fs = .boundary) (hopi : v.ctx.opi = i) (hi : i.toNat < 4)
    (hprot : v.prot = false) (hb : v.flash.busy = false) (hbp : v.flash.bp = false) {op : DeviceOp} {fop : FlashOp}
    (hop : calOp p (p.tasks.get w) i = op) (hfop : CarriesOut ws op fop) :
    ∃ t, Host.Core.run core 4 s = .next t ∧ Solo p w rest { v with
      lock := false
      ctx := { v.ctx with polls := 0, fs := .boundary, op := op, opi := i + 1 }
      flash := ⟨fop.apply p v.flash.array, false, false, none, v.flash.bp⟩ } t := by
  have hcap : (p.tasks.get w).cls ≠ .capture := by rw [hcls]; decide
  subst hopi
  obtain ⟨u1, hu1, hstep1⟩ := h
  rw [hcls, hu1.calStarts hphase hfs hprot, hop] at hstep1
  obtain ⟨u2, hu2, hstep2⟩ := (hu1.startFop hb op).endTick.ticked hcap
  have hcmd := hu2.calCommands hfop hws hlen hphase rfl rfl hb rfl hbp
  rw [hcls] at hstep2
  obtain ⟨t3, hstep3, hu3⟩ := hcmd.endTick.flashDone rfl rfl
  obtain ⟨u4, hu4, hstep4⟩ := hu3.ticked hcap
  obtain ⟨u5, hslice, hu5⟩ := hu4.calPolls hphase rfl rfl
  rw [hcls, hslice, hu5.opComplete_calStep hi] at hstep4
  exact ⟨_, (run_succ hstep1).trans ((run_succ hstep2).trans ((run_succ hstep3).trans (run_one hstep4))),
    (hu5.modCtx fun c => { c with opi := c.opi + 1 }).endTick⟩

/-- The protect step, in two ticks (rule R180). -/
theorem calProtect (h : NextSlice p w (scriptTick :: rest) v s) (hcls : (p.tasks.get w).cls = .calWrite)
    (hphase : v.ctx.phase = .run) (hfs : v.ctx.fs = .boundary) (hopi : v.ctx.opi = 4) (hprot : v.prot = false)
    (hb : v.flash.busy = false) : EndsOk p w rest { v with
      lock := false, ctx := { v.ctx with polls := 0, fs := .boundary, op := .protect }, prot := true
      flash := { v.flash with bp := true, wel := false } } 2 s := by
  obtain ⟨u1, hu1, hstep1⟩ := h
  have hop : calOp p (p.tasks.get w) v.ctx.opi = .protect := by rw [hopi]; rfl
  rw [hcls, hu1.calStarts hphase hfs hprot, hop] at hstep1
  obtain ⟨u2, hu2, hstep2⟩ := (hu1.startFop hb .protect).endTick.ticked (by rw [hcls]; decide)
  have hfl : (Machine.transact (.flProtect u2.cfg.protectData) u2).flash = { v.flash with bp := true, wel := false } := by
    rw [flProtect_flash, hu2.flash, flashProtected, if_neg (by simp [hb])]
  have hu3 := (hu2.transact hfl fun d => (flProtect_fram _ u2 d).trans (hu2.fram d)).endedOp
  have hslice : slice w (classRule w .calWrite) u2 = opComplete w (classRule w .calWrite)
      (((Machine.transact (.flProtect u2.cfg.protectData) u2).dropLock).setFs w .boundary) := by
    rw [slice_command w _ u2 (by rw [hu2.ctx]; exact hphase) (by rw [hu2.ctx]),
      commandStep_protect w _ u2 (by rw [hu2.ctx])]
    rfl
  rw [hcls, hslice, hu3.opComplete_calProtect (by show ¬v.ctx.opi.toNat < 4; rw [hopi]; decide)] at hstep2
  exact ⟨_, hu3.setProt true, rfl, (run_succ hstep1).trans (run_one hstep2)⟩

/-- The Flash's array after the four operations of a calibration write. -/
def calArray (p : Params) (c : TaskCfg) (ws : List Word) (m : Memory) : Memory :=
  m.rewritten p (flashCopyAddr p c false) (recordOut ws) |>.rewritten p (flashCopyAddr p c true) (recordOut ws)

/-- What `TICK`, `TICK` FAST, `TICK` for each of four operations and `TICK ×2` are as a list. -/
theorem calScript_eq : (List.replicate 4 ([scriptTick] ++ scriptFast ++ [scriptTick])).flatten ++ scriptTicks 2 =
    [scriptTick, scriptTick, scriptDone, scriptTick, scriptTick, scriptTick, scriptDone, scriptTick, scriptTick,
      scriptTick, scriptDone, scriptTick, scriptTick, scriptTick, scriptDone, scriptTick, scriptTick, scriptTick] := rfl

/-- A calibration write from its op boundary, by that script. -/
theorem calRecord (h : NextSlice p w ([scriptTick, scriptDone, scriptTick, scriptTick, scriptTick, scriptDone, scriptTick,
      scriptTick, scriptTick, scriptDone, scriptTick, scriptTick, scriptTick, scriptDone, scriptTick, scriptTick,
      scriptTick] ++ rest) v s)
    (hcls : (p.tasks.get w).cls = .calWrite) (hws : v.ctx.payload (p.tasks.get w).len = ws) (hlen : ws.length ≤ 62)
    (hphase : v.ctx.phase = .run) (hfs : v.ctx.fs = .boundary) (hopi : v.ctx.opi = 0) (hprot : v.prot = false)
    (hb : v.flash.busy = false) (hbp : v.flash.bp = false) : ∃ c, EndsOk p w rest { v with
      lock := false, ctx := c, prot := true
      flash := ⟨calArray p (p.tasks.get w) ws v.flash.array, false, false, none, true⟩ } 18 s := by
  have hcap : (p.tasks.get w).cls ≠ .capture := by rw [hcls]; decide
  obtain ⟨t1, hr1, h1⟩ := calStep 0 h hcls hws hlen hphase hfs hopi (by decide) hprot hb hbp rfl (.erase _)
  obtain ⟨t2, hr2, h2⟩ :=
    calStep 1 (h1.ticked hcap) hcls hws hlen hphase rfl rfl (by decide) hprot rfl hbp rfl (.program _ _)
  obtain ⟨t3, hr3, h3⟩ := calStep 2 (h2.ticked hcap) hcls hws hlen hphase rfl rfl (by decide) hprot rfl hbp rfl (.erase _)
  obtain ⟨t4, hr4, h4⟩ :=
    calStep 3 (h3.ticked hcap) hcls hws hlen hphase rfl rfl (by decide) hprot rfl hbp rfl (.program _ _)
  obtain ⟨u, hu, -, hr5⟩ := calProtect (h4.ticked hcap) hcls hphase rfl rfl hprot rfl
  exact ⟨_, u, hu, rfl, (run_add 14 4 hr1).trans ((run_add 10 4 hr2).trans ((run_add 6 4 hr3).trans
    ((run_add 2 4 hr4).trans hr5)))⟩

end Solo


/-! ### Between two tasks -/

/-- No task is in progress and LOCK is free; REQ and ACK stand at `req` and `ack`, and `inputs` come next. -/
structure AtRest (p : Params) (inputs : List Action) (req ack : Word) (s : State) : Prop where
  cfg    : s.cfg = p
  bus    : s.port.bus = none
  inputs : s.env.inputs = inputs
  req    : s.req = req
  ack    : s.ack = ack
  idle   : ∀ j, (s.ctxAt j).phase = .idle
  lockV  : s.lockV = false

/-- Contexts, PROT and the devices are those of `s`. -/
structure SameStores (s t : State) : Prop where
  ctx   : t.ctx = s.ctx
  prot  : t.prot = s.prot
  flash : t.flash = s.flash
  fram  : ∀ d, t.fram d = s.fram d

theorem SameStores.trans {s t u : State} (h : SameStores s t) (h' : SameStores t u) : SameStores s u :=
  ⟨h'.ctx.trans h.ctx, h'.prot.trans h.prot, h'.flash.trans h.flash, fun d => (h'.fram d).trans (h.fram d)⟩

/-- What task `w` sees of a state. -/
def State.scene (w : Task) (s : State) : Scene := ⟨s.lockV, s.ctxAt w, s.ctxAt, s.prot, s.flash, s.fram⟩

namespace AtRest
variable {p : Params} {inputs rest : List Action} {req ack : Word} {s : State}

/-- A task asked for at rest runs alone. -/
theorem solo {w : Task} (h : AtRest p inputs (requestWord w) 0 s) : Solo p w inputs (s.scene w) s :=
  ⟨h.cfg, h.bus, h.inputs, h.req, h.ack, fun j _ => h.idle j, fun _ _ => rfl, rfl,
    fun hl => absurd hl (by rw [h.lockV]; decide), rfl, rfl, rfl, fun _ => rfl⟩

/-- `CLR` withdraws the request. -/
theorem cleared {w : Task} (h : AtRest p (scriptClr w :: rest) (requestWord w) ack s) :
    ∃ t, step s = .next t ∧ AtRest p rest 0 ack t ∧ SameStores s t := by
  refine ⟨{ s with req := s.req &&& ~~~requestWord w, env := { s.env with inputs := rest } }, ?_, ?_, ?_⟩
  · rw [step_input h.bus h.inputs, scriptClr, act, hostWrite_global (r := .reqClr) _ _ rfl (by decide)]
    rfl
  · exact ⟨h.cfg, h.bus, rfl, by rw [h.req]; exact BitVec.and_not_self _, h.ack, h.idle, h.lockV⟩
  · exact ⟨rfl, rfl, rfl, fun d => by cases d <;> rfl⟩

/-- A `TICK` with nothing asked for clears ACK and runs nothing. -/
theorem released (h : AtRest p (scriptTick :: rest) 0 ack s) :
    ∃ t, step s = .next t ∧ AtRest p rest 0 0 t ∧ SameStores s t := by
  generalize ht : s.setEnv { s.env with inputs := rest, between := [] } = t
  have hstep : step s = tick t := by rw [step_input h.bus h.inputs, ← ht]; rfl
  have hreq (j : Task) : bitAt t.req j = false := by
    have hzero : t.req = 0 := by rw [← ht]; exact h.req
    rw [hzero]
    exact BitVec.getLsbD_zero
  have harb : arbitrate t = { t with ack := releasedAck t.req t.ack, port := { t.port with rx := .none, sent := [] } } :=
    arbitrate_quiet (fun j _ => hreq j) fun j => .inr (by rw [← ht]; exact h.idle j)
  have hsel : (arbitrate t).sel = none := by
    have hscan : (arbitrate t).scan = none := by
      rw [scan_none]
      intro j
      rw [harb, isPending]
      show (bitAt t.req j && _) = false
      rw [hreq, Bool.false_and]
    have hlock : (arbitrate t).lockV = false := by rw [harb, ← ht]; exact h.lockV
    rw [State.sel, hlock, hscan]
    rfl
  rw [tick_eq, hsel, endTick_eq, harb] at hstep
  subst ht
  refine ⟨_, hstep, ⟨h.cfg, h.bus, rfl, h.req, ?_, h.idle, h.lockV⟩, ⟨rfl, rfl, rfl, fun d => by cases d <;> rfl⟩⟩
  show s.ack &&& s.req = 0
  rw [h.req]
  exact BitVec.and_zero

/-- `SET` asks for the next task. -/
theorem requested {r : Task} (h : AtRest p (scriptSet r :: rest) 0 ack s) (hr : r.val < p.reqW) :
    ∃ t, step s = .next t ∧ AtRest p rest (requestWord r) ack t ∧ SameStores s t := by
  refine ⟨{ s with req := s.req ||| requestWord r, env := { s.env with inputs := rest } }, ?_, ?_, ?_⟩
  · rw [step_input h.bus h.inputs, act_scriptSet _ _ (by rw [setEnv_cfg, h.cfg]; exact hr)]
    rfl
  · exact ⟨h.cfg, h.bus, rfl, by rw [h.req]; exact BitVec.zero_or, h.ack, h.idle, h.lockV⟩
  · exact ⟨rfl, rfl, rfl, fun d => by cases d <;> rfl⟩

/-- `RELEASE w`, `SET r` (rule R109). -/
theorem handedOver {w r : Task} (h : AtRest p (scriptRelease w ++ scriptSet r :: rest) (requestWord w) (requestWord w) s)
    (hr : r.val < p.reqW) :
    ∃ t, Host.Core.run core 3 s = .next t ∧ AtRest p rest (requestWord r) 0 t ∧ SameStores s t := by
  obtain ⟨t1, hstep1, h1, hs1⟩ := h.cleared
  obtain ⟨t2, hstep2, h2, hs2⟩ := h1.released
  obtain ⟨t3, hstep3, h3, hs3⟩ := h2.requested hr
  exact ⟨t3, (run_succ hstep1).trans ((run_succ hstep2).trans (run_one hstep3)), h3, (hs1.trans hs2).trans hs3⟩

end AtRest

/-- A task that finishes with LOCK free is acknowledged and leaves the engine at rest (rule R214). -/
theorem AtRest.of_finish {p : Params} {w : Task} {inputs : List Action} {v : Scene} {s : State} (h : Solo p w inputs v s)
    (hlock : v.lock = false) (st : Status) : ∃ t, endTick (finish w st s) = t ∧
      AtRest p inputs (requestWord w) (requestWord w) t ∧
      t.ctxAt w = { v.ctx.ended with status := st, phase := .idle } ∧ (∀ j, j ≠ w → t.ctxAt j = v.others j) ∧
      t.flash = v.flash ∧ ∀ d, t.fram d = v.fram d := by
  have hctx (j : Task) : (endTick (finish w st s)).ctxAt j =
      if j = w then { v.ctx.ended with status := st, phase := .idle } else s.ctxAt j := by
    rw [endTick_eq]
    show (finish w st s).ctxAt j = _
    rw [ctxAt_finish, h.ctx, if_pos h.scan]
  have hne (j : Task) (hj : j ≠ w) : (endTick (finish w st s)).ctxAt j = v.others j := by
    rw [hctx, if_neg hj, h.others j hj]
  refine ⟨_, rfl, ⟨?_, ?_, ?_, ?_, ?_, ?_, ?_⟩, by rw [hctx, if_pos rfl], hne, ?_, ?_⟩
  all_goals rw [endTick_eq, finish_eq]
  · exact h.cfg
  · exact h.bus
  · exact h.inputs
  · exact h.req
  · show (if s.scan = some w then setBit s.ack w else s.ack) = _
    rw [if_pos h.scan, h.ack]
    exact BitVec.zero_or
  · intro j
    rw [← finish_eq, ← endTick_eq]
    by_cases hj : j = w
    · rw [hctx, if_pos hj]
    · rw [hne j hj, h.idle j hj]
  · exact h.lockV.trans hlock
  · exact h.flash
  · exact fun d => (by cases d <;> rfl : _ = s.fram d).trans (h.fram d)


/-- VAL holds the payload it was set from. -/
theorem payload_withVal (c : Ctx) {len : Nat} {ws : List Word} (h62 : len ≤ 62) (h : len ≤ ws.length) :
    (c.withVal len ws).payload len = ws.take len := by
  refine List.ext_getElem (by simp [Ctx.payload, h62, h]) fun i h1 h2 => ?_
  have hi : i < len := by rw [List.length_take] at h2; omega
  have hget := withVal_val_get c len ws ⟨i, by omega⟩
  rw [if_pos hi, List.getD_eq_getElem _ _ (show i < ws.length by omega)] at hget
  simp only [Ctx.payload, List.getElem_take, Vector.getElem_toList]
  exact hget

theorem take_encodeRecord (ws : List Word) : (encodeRecord ws).take ws.length = ws := by
  rw [encodeRecord, List.take_left' rfl]

/-! ### Reading a record's primary copy (rules R174, R175) -/

theorem framSel_eq_none {d : Dev} (h : framSel d = none) : d = .flash := by
  cases d
  · rfl
  · cases h
  · cases h

/-- The bytes that the primary copy of a record holds. -/
def Scene.primaryBytes (v : Scene) (p : Params) (c : TaskCfg) (d : Dev) : List Byte :=
  match framSel d with
  | none => v.flash.array.readWrap p.flashBytes (byteAddrOf c.packed).toNat (2 * recordWordCount c.len)
  | some e => (v.fram e).array.readWrap (p.framBytes d) (framCopyAddr p c d false).toNat (2 * recordWordCount c.len)

theorem Scene.primaryBytes_congr {v v' : Scene} (hflash : v.flash = v'.flash) (hfram : v.fram = v'.fram) (p : Params)
    (c : TaskCfg) (d : Dev) : v.primaryBytes p c d = v'.primaryBytes p c d := by
  rw [Scene.primaryBytes, Scene.primaryBytes, hflash, hfram]

namespace Solo
variable {p : Params} {r : Task} {inputs rest : List Action} {v : Scene} {s : State} {d : Dev} {ws : List Word}

/-- The frame that reads the copy returns them and changes nothing. -/
theorem primaryRead (h : Solo p r inputs v s) {c : TaskCfg} (hlen : c.len ≤ 62) (hb : d = .flash → v.flash.busy = false) :
    (Machine.transact (copyFrame p c d false) s).port.rx.bytes = v.primaryBytes p c d ∧
      Solo p r inputs v (Machine.transact (copyFrame p c d false) s) := by
  have hcount := recordWordCount_eq c.len
  cases hd : framSel d with
  | none =>
    have hframe : copyFrame p c d false = .flRead (byteAddrOf c.packed) (recordWordCount c.len) := by
      rw [copyFrame, hd]; rfl
    obtain rfl : d = .flash := framSel_eq_none hd
    rw [hframe, Scene.primaryBytes, hd]
    refine ⟨?_, h.transact ((flRead_flash _ _ s).trans h.flash) fun e => (flRead_fram _ _ s e).trans (h.fram e)⟩
    rw [transact_flRead_bytes _ _ s (illFormed_flRead _ _ (by omega) (by omega)) (by rw [h.flash, hb rfl]), h.flash, h.cfg]
  | some e =>
    have hframe : copyFrame p c d false = .frRead e (framCopyAddr p c d false) (2 * recordWordCount c.len) := by
      rw [copyFrame, hd]
    obtain rfl : d = e.dev := (framSel_eq_some d e).mp hd
    rw [hframe, Scene.primaryBytes, hd]
    refine ⟨?_, h.transact ((frRead_flash _ _ _ s).trans h.flash) fun e => (frRead_fram _ _ _ s e).trans (h.fram e)⟩
    rw [transact_frRead_bytes _ _ _ s (illFormed_frRead _ _ _ (by omega) (by omega)), h.fram, h.cfg]

/-- A record read at its first op boundary accepts a valid primary copy. -/
theorem acceptsPrimary (h : Solo p r inputs v s) (hdevs : (p.tasks.get r).devs = [d]) (hlen : (p.tasks.get r).len = ws.length)
    (h62 : ws.length ≤ 62) (hb : d = .flash → v.flash.busy = false) (hopi : v.ctx.opi = 0)
    (hbytes : v.primaryBytes p (p.tasks.get r) d = recordOut ws) :
    ∃ u, recordReadStep r s = finish r .ok u ∧
      Solo p r inputs { v with ctx := { v.ctx.withVal ws.length (encodeRecord ws) with src := .primary } } u := by
  obtain ⟨hread, hu⟩ := h.primaryRead (d := d) (c := p.tasks.get r) (by omega) hb
  refine ⟨_, ?_, hu.modCtx fun c => { c.withVal ws.length (encodeRecord ws) with src := .primary }⟩
  rw [recordReadStep, h.taskCfg, (taskDev_eq_some _ d).mpr hdevs, h.cfg, h.ctx, hopi]
  have hsecond : ((0 : BitVec 4) != 0) = false := rfl
  simp only [hsecond]
  rw [hread, hbytes, recordOf_recordOut, hlen, if_pos (validRecord_encodeRecord ws)]
  rfl

/-- One `TICK` of a record read whose primary copy holds the record of `ws`. -/
theorem readBack (h : Solo p r (scriptTick :: rest) v s) (hcls : (p.tasks.get r).cls = .rrRead)
    (hdevs : (p.tasks.get r).devs = [d]) (hlen : (p.tasks.get r).len = ws.length) (h1 : 1 ≤ ws.length)
    (hmax : ws.length ≤ p.lMax) (h62 : ws.length ≤ 62) (hb : d = .flash → v.flash.busy = false) (hidle : v.ctx.phase = .idle)
    (hlock : v.lock = false) (hbytes : v.primaryBytes p (p.tasks.get r) d = recordOut ws) :
    ∃ t, step s = .next t ∧ AtRest p rest (requestWord r) (requestWord r) t ∧
      (t.ctxAt r).payload ws.length = ws ∧ (t.ctxAt r).src = .primary ∧ (t.ctxAt r).status = .ok ∧
      ∀ j, j ≠ r → t.ctxAt j = v.others j := by
  obtain ⟨u, hu, hstep⟩ := h.ticked (by rw [hcls]; decide)
  have hbegun := (hu.modCtx fun c => { c with phase := .run, opi := 0, fs := .boundary, polls := 0 }).modCtx
    fun c => { c with src := .noRead }
  have hvalid : (recordReadRule r).valid ((recordReadRule r).start (beginTask r u)) = true := by
    rw [recordReadRule_valid]
    show (∃ e, (u.taskCfg r).devs = [e]) ∧ 1 ≤ (u.taskCfg r).len ∧ (u.taskCfg r).len ≤ u.cfg.lMax
    rw [hu.taskCfg, hu.cfg, hlen]
    exact ⟨⟨d, hdevs⟩, h1, hmax⟩
  obtain ⟨u', hread, hu'⟩ := hbegun.acceptsPrimary hdevs hlen h62 hb rfl hbytes
  have hslice : slice r (classRule r .rrRead) u = finish r .ok u' := by
    rw [slice_idle r _ u (by rw [hu.ctx, hidle]), classRule, if_pos hvalid, ← hread, runTask, if_pos]
    · rfl
    · exact congrArg Ctx.fs hbegun.ctx
  rw [hcls, hslice] at hstep
  obtain ⟨t, rfl, hrest, hctx, hothers, -, -⟩ := AtRest.of_finish hu' hlock .ok
  refine ⟨_, hstep, hrest, ?_, by rw [hctx]; rfl, by rw [hctx], hothers⟩
  rw [hctx]
  have hpay := payload_withVal { v.ctx with phase := .run, opi := 0, fs := .boundary, polls := 0, src := .noRead } h62
    (show ws.length ≤ (encodeRecord ws).length by rw [length_encodeRecord]; omega)
  rw [take_encodeRecord] at hpay
  exact hpay

end Solo

end Sys2Proof.Machine

namespace Sys2Proof

/-! ### The rows of the record classes (rule R94) -/

/-- The two copies of a calibration record lie in different sectors (rule R94). -/
theorem Params.Ok.calSectors {p : Params} (hok : p.Ok) {k : Task} (hcls : (p.tasks.get k).cls = .calWrite) :
    Machine.sectorOf (Machine.flashCopyAddr p (p.tasks.get k) false) ≠
      Machine.sectorOf (Machine.flashCopyAddr p (p.tasks.get k) true) := by
  have hc := p.ok_iff.mp hok
  simp only [Params.checks, forall_checks_cons] at hc
  obtain ⟨-, -, -, -, -, -, -, -, -, -, -, -, -, -, -, -, -, hplace, -⟩ := hc
  have hmem : k ∈ p.tasksOf .calWrite := by simp [Params.tasksOf, hcls]
  have hk := List.all_eq_true.mp hplace k hmem
  rw [Params.calPlaced, Bool.and_eq_true, decide_eq_true_iff] at hk
  intro e
  have hsec (a : Packed) : (Machine.sectorOf a).toNat = a.toNat / 16 := by
    rw [Machine.sectorOf, BitVec.extractLsb'_toNat, Nat.shiftRight_eq_div_pow]
    have := a.isLt
    omega
  refine hk.2 ?_
  rw [← hsec, ← hsec]
  exact congrArg BitVec.toNat e

/-- The shape of a record class's row (rules R94, R104). -/
theorem Params.Ok.recordRow {p : Params} (hok : p.Ok) (k : Task) : (p.tasks.get k).recordOk p.lMax = true := by
  have hc := p.ok_iff.mp hok
  simp only [Params.checks, forall_checks_cons] at hc
  obtain ⟨-, -, -, -, -, -, -, -, -, -, -, -, -, -, -, -, hshape, -⟩ := hc
  exact List.all_eq_true.mp hshape k (List.mem_finRange k)

theorem Params.Ok.rrWriteRow {p : Params} (hok : p.Ok) {k : Task} (hcls : (p.tasks.get k).cls = .rrWrite) :
    (∃ d : FramSel, (p.tasks.get k).devs = [d.dev]) ∧ 1 ≤ (p.tasks.get k).len ∧ (p.tasks.get k).len ≤ p.lMax := by
  have h := hok.recordRow k
  simp only [TaskCfg.recordOk, hcls, Bool.and_eq_true, Bool.or_eq_true, decide_eq_true_iff, beq_iff_eq] at h
  obtain ⟨⟨⟨h1, hmax⟩, -⟩, hdev⟩ := h
  exact ⟨hdev.elim (fun e => ⟨.fram1, e⟩) fun e => ⟨.fram2, e⟩, h1, hmax⟩

theorem Params.Ok.calWriteRow {p : Params} (hok : p.Ok) {k : Task} (hcls : (p.tasks.get k).cls = .calWrite) :
    (p.tasks.get k).devs = [.flash] ∧ 1 ≤ (p.tasks.get k).len ∧ (p.tasks.get k).len ≤ p.lMax := by
  have h := hok.recordRow k
  simp only [TaskCfg.recordOk, hcls, Bool.and_eq_true, decide_eq_true_iff, beq_iff_eq] at h
  obtain ⟨⟨⟨h1, hmax⟩, -⟩, hdev⟩ := h
  exact ⟨hdev, h1, hmax⟩

end Sys2Proof

namespace Sys2Proof.Machine

/-! ### What the primary copy holds (rules R170, R177) -/

/-- Two copies of the same bytes written to different places of an FRAM: the first reads back. -/
theorem readWrap_of_copies (size : Nat) (m : Memory) (a b : Nat) (bytes : List Byte) (hsize : bytes.length ≤ size)
    (hdis : ∀ i < bytes.length, ∀ j < bytes.length, (a + i) % size ≠ (b + j) % size) :
    ((m.writeWrap size a bytes).writeWrap size b bytes).readWrap size a bytes.length = bytes := by
  refine (readWrap_congr size _ (m.writeWrap size a bytes) a _ fun i hi => ?_).trans
    (readWrap_writeWrap size m a bytes hsize)
  exact read_writeWrap_outside size bytes _ b _ fun j hj e => hdis i hi j hj e.symm

/-- The byte address of a copy in an FRAM (rules R62, R103). -/
theorem framCopyAddr_toNat {p : Params} (hok : p.Ok) (c : TaskCfg) (d : FramSel) (second : Bool) :
    (framCopyAddr p c d.dev second).toNat =
      (if second then c.addr.toNat + p.rrOffFram else c.addr.toNat) % p.framBytes d.dev := by
  have hb := hok.framBytes d
  have hlt := Nat.mod_lt (if second then c.addr.toNat + p.rrOffFram else c.addr.toNat) (show p.framBytes d.dev > 0 by omega)
  rw [framCopyAddr, framAddr, BitVec.toNat_ofNat, Nat.mod_eq_of_lt (by omega)]

/-- A byte of the page programmed after its sector's erase (rules R73, R74). -/
theorem read_rewritten_inside (p : Params) (a : Packed) (bytes : List Byte) (m : Memory) {i : Nat} (hi : i < bytes.length)
    (h256 : bytes.length ≤ 256) : (m.rewritten p a bytes).read (256 * a.toNat + i) = bytes[i] := by
  have hblank : (m.erase ((sectorOf a).toNat * Config.sectorBytes) Config.sectorBytes).read (256 * a.toNat + i) = 0xFF := by
    have hsec := sectorOf_byteAddrOf a
    rw [toNat_byteAddrOf, Config.sectorBytes] at hsec
    rw [read_erase, Config.sectorBytes, if_pos (by omega)]
    rfl
  rw [Memory.rewritten, FlashOp.apply, FlashOp.apply, ← toNat_byteAddrOf, read_program_inside _ _ _ _ _ hi, toNat_byteAddrOf,
    hblank]
  cases p.progMode
  · exact BitVec.allOnes_and
  · rfl

/-- A byte of another sector stands. -/
theorem read_rewritten_outside (p : Params) (a : Packed) (bytes : List Byte) (m : Memory) {x : Nat}
    (hx : x / Config.sectorBytes ≠ (sectorOf a).toNat) (h256 : bytes.length ≤ 256) :
    (m.rewritten p a bytes).read x = m.read x := by
  have hsec := sectorOf_byteAddrOf a
  rw [toNat_byteAddrOf] at hsec
  rw [Config.sectorBytes] at hsec hx
  rw [Memory.rewritten, FlashOp.apply, FlashOp.apply, read_program_outside _ _ _ _ _ (by rw [toNat_byteAddrOf]; omega),
    read_erase, if_neg (by rw [Config.sectorBytes]; omega)]

theorem length_recordOut_le {ws : List Word} (h : ws.length ≤ 62) : (recordOut ws).length ≤ 256 := by
  have hout := length_recordOut ws
  rw [recordWordCount_eq] at hout
  omega

/-- After a calibration write the primary copy reads as the record. -/
theorem readWrap_calArray {p : Params} (hok : p.Ok) {k : Task} (hcls : (p.tasks.get k).cls = .calWrite) {ws : List Word}
    (h62 : ws.length ≤ 62) (m : Memory) : (Solo.calArray p (p.tasks.get k) ws m).readWrap p.flashBytes
      (byteAddrOf (p.tasks.get k).packed).toNat (recordOut ws).length = recordOut ws := by
  have h256 := length_recordOut_le h62
  refine List.ext_getElem (length_readWrap _ _ _ _) fun i h1 hi => ?_
  have hpacked := (p.tasks.get k).packed.isLt
  have hsec := sectorOf_byteAddrOf (p.tasks.get k).packed
  have hne : (256 * (p.tasks.get k).packed.toNat + i) / Config.sectorBytes ≠
      (sectorOf (flashCopyAddr p (p.tasks.get k) true)).toNat := by
    intro e
    refine hok.calSectors hcls (BitVec.eq_of_toNat_eq ?_)
    rw [← e, flashCopyAddr, if_neg (by decide), ← hsec, toNat_byteAddrOf, Config.sectorBytes]
    omega
  rw [getElem_readWrap, hok.flashBytes, toNat_byteAddrOf, Nat.mod_eq_of_lt (by omega), Solo.calArray,
    read_rewritten_outside _ _ _ _ hne h256]
  exact read_rewritten_inside p _ _ m hi h256


/-! ### The round trip -/

namespace Solo
variable {p : Params} {w r : Task} {v : Scene} {s : State} {ws : List Word} {n : Nat}

/-- Once task `w` ends OK, `RELEASE w`, `SET r`, `TICK` read back the record that the primary copy holds. -/
theorem EndsOk.readsBack (h : EndsOk p w (scriptRelease w ++ [scriptSet r, scriptTick]) v n s) (hok : p.Ok) (hwr : w ≠ r)
    (hcls : (p.tasks.get r).cls = .rrRead) {d : Dev} (hdevs : (p.tasks.get r).devs = [d])
    (hlen : (p.tasks.get r).len = ws.length) (h1 : 1 ≤ ws.length) (hmax : ws.length ≤ p.lMax)
    (hb : d = .flash → v.flash.busy = false) (hbytes : v.primaryBytes p (p.tasks.get r) d = recordOut ws) :
    ∃ t, Host.Core.run core (n + 4) s = .next t ∧ (t.ctxAt r).payload ws.length = ws ∧ (t.ctxAt r).src = .primary ∧
      (t.ctxAt r).status = .ok ∧ (t.ctxAt w).status = .ok ∧ t.req = requestWord r ∧ t.ack = requestWord r := by
  obtain ⟨u, hu, hlock, hwrite⟩ := h
  obtain ⟨t1, rfl, hrest, hctx, -, hflash, hfram⟩ := AtRest.of_finish hu hlock .ok
  obtain ⟨t2, hrelease, hrest2, hsame⟩ := hrest.handedOver (hok.task_lt r (by rw [hcls]; decide))
  have hflash2 : t2.flash = v.flash := hsame.flash.trans hflash
  have hfram2 : t2.fram = v.fram := funext fun e => (hsame.fram e).trans (hfram e)
  have hbytes2 : (t2.scene r).primaryBytes p (p.tasks.get r) d = recordOut ws := by
    rw [← hbytes]
    exact Scene.primaryBytes_congr hflash2 hfram2 p _ d
  obtain ⟨t, hread, hrest3, hpay, hsrc, hstatus, hothers⟩ := hrest2.solo.readBack hcls hdevs hlen h1 hmax
    (hmax.trans hok.lMax.2) (fun e => (congrArg Flash.busy hflash2).trans (hb e)) (hrest2.idle r) hrest2.lockV hbytes2
  refine ⟨t, (run_add 4 n hwrite).trans ((run_add 1 3 hrelease).trans (run_one hread)), hpay, hsrc, hstatus, ?_,
    hrest3.req, hrest3.ack⟩
  rw [hothers w hwr]
  show (t2.ctxAt w).status = .ok
  rw [ctxAt_congr hsame.ctx w, hctx]

/-- What an FRAM holds once both copies are written, where they lie in different bytes. -/
theorem primaryBytes_framRecord (hok : p.Ok) {d : FramSel} (v : Scene) (ctx : Ctx) {c : TaskCfg}
    (hlen : c.len = ws.length) (haddr : c.addr = (p.tasks.get w).addr)
    (hsize : (recordOut ws).length ≤ p.framBytes d.dev)
    (hdis : ∀ i < (recordOut ws).length, ∀ j < (recordOut ws).length,
      ((p.tasks.get w).addr.toNat + i) % p.framBytes d.dev ≠
        ((p.tasks.get w).addr.toNat + p.rrOffFram + j) % p.framBytes d.dev) :
    Scene.primaryBytes { (v.wrote p d (framAt p w d false) (recordOut ws)).wrote p d (framAt p w d true) (recordOut ws)
      with lock := false, ctx := ctx } p c d.dev = recordOut ws := by
  have hread := readWrap_of_copies (p.framBytes d.dev) (v.fram d).array (framAt p w d false).toNat (framAt p w d true).toNat
    (recordOut ws) hsize fun i hi j hj => by
      rw [framAt, framAt, framCopyAddr_toNat hok, framCopyAddr_toNat hok, if_neg (by decide), if_pos rfl,
        Nat.mod_add_mod, Nat.mod_add_mod]
      exact hdis i hi j hj
  have hplace : (framCopyAddr p c d.dev false) = framAt p w d false := by
    rw [framAt, framCopyAddr, framCopyAddr, haddr]
  rw [length_recordOut, ← hlen] at hread
  rw [Scene.primaryBytes, framSel_dev]
  simpa [Scene.wrote, hplace] using hread

/-- What the Flash holds after a calibration write. -/
theorem primaryBytes_calRecord (hok : p.Ok) (hcls : (p.tasks.get w).cls = .calWrite) (h62 : ws.length ≤ 62) {c : TaskCfg}
    (hlen : c.len = ws.length) (haddr : c.addr = (p.tasks.get w).addr) {m : Memory}
    (hv : v.flash.array = calArray p (p.tasks.get w) ws m) : v.primaryBytes p c .flash = recordOut ws := by
  have hread := readWrap_calArray hok hcls h62 m
  have hplace : c.packed = (p.tasks.get w).packed := by rw [TaskCfg.packed, TaskCfg.packed, haddr]
  rw [length_recordOut, ← hlen] at hread
  rw [Scene.primaryBytes, framSel, hv, hplace]
  exact hread

/-- `TICK ×4` writes an FRAM record whose copies lie in different bytes (rule R173). -/
theorem framWritten {rest : List Action} (h : AtRest p (scriptTicks 4 ++ rest) (requestWord w) 0 s) (hok : p.Ok)
    (hcls : (p.tasks.get w).cls = .rrWrite) {d : FramSel} (hdevs : (p.tasks.get w).devs = [d.dev])
    (hws : (s.ctxAt w).payload (p.tasks.get w).len = ws) (h62 : ws.length ≤ 62) {c : TaskCfg} (hlen : c.len = ws.length)
    (haddr : c.addr = (p.tasks.get w).addr) (hsize : (recordOut ws).length ≤ p.framBytes d.dev)
    (hdis : ∀ i < (recordOut ws).length, ∀ j < (recordOut ws).length,
      ((p.tasks.get w).addr.toNat + i) % p.framBytes d.dev ≠
        ((p.tasks.get w).addr.toNat + p.rrOffFram + j) % p.framBytes d.dev) :
    ∃ v, EndsOk p w rest v 4 s ∧ v.primaryBytes p c d.dev = recordOut ws := by
  have hvalid (u : State) (hu : u.cfg = p) : (recordWriteRule w).valid u = true := by
    rw [recordWriteRule_valid, State.taskCfg, hu]
    exact hok.rrWriteRow hcls
  have hnext := begun (h.solo.ticked (by rw [hcls]; decide)) (h.idle w) (by rw [hcls]; rfl) (by rw [hcls]; exact hvalid)
  obtain ⟨ctx, hends⟩ := framRecord hnext hcls hdevs hws h62 rfl rfl rfl
  exact ⟨_, hends, primaryBytes_framRecord hok _ _ hlen haddr hsize hdis⟩

/-- The script of a CAL_WRITE writes a record to the idle, unprotected Flash (rule R179). -/
theorem calWritten {rest : List Action}
    (h : AtRest p ((List.replicate 4 ([scriptTick] ++ scriptFast ++ [scriptTick])).flatten ++ scriptTicks 2 ++ rest)
      (requestWord w) 0 s) (hok : p.Ok) (hcls : (p.tasks.get w).cls = .calWrite)
    (hws : (s.ctxAt w).payload (p.tasks.get w).len = ws) (h62 : ws.length ≤ 62) {c : TaskCfg} (hlen : c.len = ws.length)
    (haddr : c.addr = (p.tasks.get w).addr) (hprot : s.prot = false) (hb : s.flash.busy = false)
    (hbp : s.flash.bp = false) :
    ∃ v, EndsOk p w rest v 18 s ∧ v.flash.busy = false ∧ v.primaryBytes p c .flash = recordOut ws := by
  have hvalid (u : State) (hu : u.cfg = p) : (calWriteRule w).valid u = true := by
    rw [calWriteRule_valid, State.taskCfg, hu]
    exact hok.calWriteRow hcls
  rw [calScript_eq] at h
  have hnext := begun (h.solo.ticked (by rw [hcls]; decide)) (h.idle w) (by rw [hcls]; rfl) (by rw [hcls]; exact hvalid)
  obtain ⟨ctx, hends⟩ := calRecord hnext hcls hws h62 rfl rfl rfl hprot hb hbp
  exact ⟨_, hends, rfl, primaryBytes_calRecord hok hcls h62 hlen haddr rfl⟩

end Solo

/-- Settles O60: the writer runs alone up to its end, `RELEASE w` leaves the engine at rest with both copies stored, and the
reader accepts the primary. -/
theorem redundantRoundTrip : Obligations.RedundantRoundTrip := by
  unfold Obligations.RedundantRoundTrip
  intro s w r len writing hok hread hdevs haddr hrlen hwlen hwrite hidle hlock hreq hack hbus hin
  rw [List.append_assoc] at hin
  have hrest : AtRest s.cfg (writing ++ (scriptRelease w ++ [scriptSet r, scriptTick])) (requestWord w) 0 s :=
    ⟨rfl, hbus, hin, hreq, hack, hidle, hlock⟩
  have hwr {cls : OpClass} (h : (s.taskCfg w).cls = cls) (hne : cls ≠ .rrRead) : w ≠ r := by
    rintro rfl
    exact hne (h.symm.trans hread)
  generalize hws : (s.ctxAt w).payload len = ws
  have hwords (h : len ≤ s.cfg.lMax) : ws.length = len := by
    rw [← hws, length_payload _ _ (h.trans hok.lMax.2)]
  obtain ⟨hcls, rfl, hcopies⟩ | ⟨hcls, rfl, hprot, hbp, hb⟩ := hwrite
  · obtain ⟨⟨d, hd⟩, h1, hmax⟩ := hok.rrWriteRow hcls
    rw [show (s.cfg.tasks.get w).len = len from hwlen] at h1 hmax
    have hlen := hwords hmax
    obtain ⟨hsize, hdis⟩ := hcopies d hd
    have hout : (recordOut ws).length = 4 * (len + 2) := by
      rw [length_recordOut, recordWordCount_eq, hlen]
      omega
    rw [← hout] at hsize hdis
    obtain ⟨v, hends, hbytes⟩ := Solo.framWritten hrest hok hcls hd (by rw [← hws, ← hwlen]; rfl) (by have := hok.lMax; omega)
      (hrlen.trans hlen.symm) haddr hsize hdis
    have hdone := hends.readsBack hok (hwr hcls (by decide)) hread (hdevs.trans hd) (hrlen.trans hlen.symm) (by omega)
      (by omega) (fun e => by cases d <;> cases e) hbytes
    rw [hlen, ← hws] at hdone
    exact hdone
  · obtain ⟨hd, h1, hmax⟩ := hok.calWriteRow hcls
    rw [show (s.cfg.tasks.get w).len = len from hwlen] at h1 hmax
    have hlen := hwords hmax
    obtain ⟨v, hends, hbusy, hbytes⟩ := Solo.calWritten hrest hok hcls (by rw [← hws, ← hwlen]; rfl)
      (by have := hok.lMax; omega) (hrlen.trans hlen.symm) haddr hprot hb hbp
    have hdone := hends.readsBack hok (hwr hcls (by decide)) hread (hdevs.trans hd) (hrlen.trans hlen.symm) (by omega)
      (by omega) (fun _ => hbusy) hbytes
    rw [hlen, ← hws] at hdone
    exact hdone

end Sys2Proof.Machine

namespace Sys2Proof.Machine

/-! ### The command slice of a page write and of an erase (rules R151, R231, R232) -/

/-- A program or erase frame that the engine sends, as a whole state (rules R123-R125). -/
theorem transact_flashCommand {i : Instr} {s : State} {op : FlashOp} (hi : i.WellFormed)
    (h : flashTarget s.cfg i = some op) :
    transact i s = { s.sentFrame i with flash := s.commanded op } := by
  cases i <;> simp only [flashTarget, Option.some.injEq, reduceCtorEq] at h <;> subst h
  case flPp p words => exact transact_flPp_state p words s hi
  case flSe p => exact transact_flSe_state p s
  case flBe p => exact transact_flBe_state p s

/-- The command slice of a page write takes its words from BUF as it stands (rule R231). -/
theorem commandStep_pageWrite {k : Task} {s : State} {p : Packed} {n : Nat} (hcls : (s.taskCfg k).cls = .pageWrite)
    (hop : (s.ctxAt k).op = .prog p n) :
    commandStep k (taskRule k s) s = (transact (.flPp p ((s.ctxAt k).bufWords n)) s).setFs k .issued := by
  rw [taskRule, hcls, commandStep_prog k _ s p n hop]
  rfl

/-- Settles O32: each kept operation sends one well-formed frame, and the Flash is commanded what that frame asks for. -/
theorem flashCommandSlice : Obligations.FlashCommandSlice := by
  unfold Obligations.FlashCommandSlice
  intro frame op k s p hkind hphase hfs
  obtain ⟨hstep, hwf, htarget⟩ : commandStep k (taskRule k s) s = (transact frame s).setFs k .issued ∧
      frame.WellFormed ∧ flashTarget s.cfg frame = some op := by
    rcases hkind with ⟨hop, rfl, rfl⟩ | ⟨hop, rfl, rfl⟩ | ⟨n, words, hop, hcls, h1, h2, rfl, rfl, rfl⟩
    · exact ⟨commandStep_se k _ s p hop, rfl, rfl⟩
    · exact ⟨commandStep_be k _ s p hop, rfl, rfl⟩
    · have hlen := length_bufWords (s.ctxAt k) n h2
      exact ⟨commandStep_pageWrite hcls hop, illFormed_flPp p _ (h1.trans_eq hlen.symm) (hlen.trans_le h2), rfl⟩
  rw [exec_request, slice_command k _ s hphase hfs, hstep, transact_flashCommand hwf htarget]
  rfl

/-! ### Write enable and protection frames -/

/-- FL_WREN as a whole state: a busy Flash keeps its latch (rule R121). -/
theorem flWren_eq (s : State) : flWren s = { s with
    flash := { s.flash with wel := s.flash.wel || !s.flash.busy }, port := { s.port with rx := .none } } := by
  rw [flWren]
  cases s.flash.busy with
  | true => rw [if_pos rfl, Bool.not_true, Bool.or_false]; rfl
  | false => rw [if_neg Bool.false_ne_true, Bool.not_false, Bool.or_true]; rfl

/-- Settles O9: the Flash's latch follows BUSY; an FRAM's is set whatever its state. -/
theorem writeEnableSetsLatch : Obligations.WriteEnableSetsLatch := by
  unfold Obligations.WriteEnableSetsLatch
  refine ⟨fun s => ?_, fun s => ?_, fun s => ?_⟩
  · rw [exec_frame _ s rfl, deviceEffect, flWren_eq]
  · exact exec_frame (.frWren .fram1) s rfl
  · exact exec_frame (.frWren .fram2) s rfl

/-- Settles O12: both frames are one protection command, with BP as its operand. -/
theorem protectionFramesWriteBp : Obligations.ProtectionFramesWriteBp := by
  unfold Obligations.ProtectionFramesWriteBp
  rintro i bp s (⟨rfl, rfl⟩ | ⟨data, rfl, rfl⟩)
  · rw [exec_frame _ s rfl, deviceEffect, flUlbpr, noRx_flashProtection]
  · rw [exec_frame _ s rfl, deviceEffect, flProtect, noRx_flashProtection]

end Sys2Proof.Machine

namespace Sys2Proof.Machine

/-! ### The checksum of a changed payload (rule R140) -/

/-- The checksum is the sum of the words in the ring of integers modulo 2^32. -/
theorem checksum_eq_sum (ws : List Word) : checksum ws = ws.sum := List.sum_eq_foldl.symm

/-- The order of the words does not enter the checksum. -/
theorem checksum_perm {p q : List Word} (h : q.Perm p) : checksum q = checksum p := by
  rw [checksum_eq_sum, checksum_eq_sum, h.sum_eq]

/-- A changed word moves the checksum by its own change. -/
theorem checksum_set (ws : List Word) (v : Word) {i : Nat} (hi : i < ws.length) :
    checksum (ws.set i v) = checksum ws + (v - ws[i]) := by
  rw [checksum_eq_sum, checksum_eq_sum, List.sum_set', dif_pos hi, neg_add_eq_sub]

/-- Two changed words move the checksum by the sum of their changes. -/
theorem checksum_set_set (ws : List Word) (v w : Word) {i j : Nat} (hi : i < ws.length) (hj : j < ws.length) (hij : i ≠ j) :
    checksum ((ws.set i v).set j w) = checksum ws + ((v - ws[i]) + (w - ws[j])) := by
  rw [checksum_set (ws.set i v) w (by rwa [List.length_set]), List.getElem_set_ne hij, checksum_set ws v hi, add_assoc]

/-! ### One flipped bit -/

@[simp] theorem bitAt_flip (w : Word) (b j : Task) : bitAt (w ^^^ requestWord b) j = (bitAt w j ^^ decide (j = b)) := by
  rw [← bitAt_requestWord]; exact BitVec.getLsbD_xor

theorem flip_ne (w : Word) (b : Task) : w ^^^ requestWord b ≠ w := fun h => by
  simpa using congrArg (bitAt · b) h

theorem and_requestWord_of_clear {w : Word} {b : Task} (h : bitAt w b = false) : w &&& requestWord b = 0 :=
  word_ext fun k => by
    have hand : bitAt (w &&& requestWord b) k = (bitAt w k && decide (k = b)) := by
      rw [← bitAt_requestWord]; exact BitVec.getLsbD_and
    have hzero : bitAt 0 k = false := BitVec.getLsbD_zero
    rw [hand, hzero]
    by_cases hk : k = b
    · rw [hk, h, Bool.false_and]
    · rw [decide_eq_false hk, Bool.and_false]

theorem flip_of_clear {w : Word} {b : Task} (h : bitAt w b = false) : w ^^^ requestWord b = setBit w b :=
  word_ext fun k => by
    rw [bitAt_flip, bitAt_setBit]
    by_cases hk : k = b
    · rw [hk, h, Bool.false_xor, Bool.false_or]
    · rw [decide_eq_false hk, Bool.xor_false, Bool.or_false]

/-- Where the bit is clear, the flip adds `2^b`: there is no carry. -/
theorem flip_sub_of_clear {w : Word} {b : Task} (h : bitAt w b = false) : (w ^^^ requestWord b) - w = requestWord b := by
  rw [flip_of_clear h, setBit, ← BitVec.add_eq_or_of_and_eq_zero _ _ (and_requestWord_of_clear h), add_sub_cancel_left]

/-- Where the bit is set, the flip takes `2^b` away: it undoes the flip of the word with the bit clear. -/
theorem flip_sub_of_set {w : Word} {b : Task} (h : bitAt w b = true) : (w ^^^ requestWord b) - w = -requestWord b := by
  have hclear : bitAt (w ^^^ requestWord b) b = false := by simp [h]
  have hback := flip_sub_of_clear hclear
  rw [BitVec.xor_assoc, BitVec.xor_self, BitVec.xor_zero] at hback
  exact neg_eq_iff_eq_neg.mp ((neg_sub _ _).trans hback)

/-! ### What `Valid` rejects and what passes it (rule R144) -/

/-- `Valid` on a payload and its two check words (rule R143). -/
theorem validRecord_append (q : List Word) (c d : Word) :
    validRecord (q ++ [c, d]) q.length = true ↔ checksum q = c ∧ d = complement c := by
  simp [validRecord]

/-- A word and its complement differ. -/
theorem ne_complement (w : Word) : w ≠ complement w := fun h => by
  simpa [complement] using congrArg (BitVec.getLsbD · 0) h

/-- A record whose words are all the same is invalid: its last two are not complements. -/
theorem validRecord_replicate (w : Word) (len : Nat) : validRecord (List.replicate (len + 2) w) len = false := by
  have h := validRecord_append (List.replicate len w) w w
  rw [← List.replicate_append_replicate (n := len) (m := 2)]
  rw [List.length_replicate] at h
  exact Bool.eq_false_iff.mpr fun hv => ne_complement w (h.mp hv).2

/-- A payload with the checksum of another one passes with the other's check words. -/
theorem validRecord_of_checksum_eq {p q : List Word} (h : checksum q = checksum p) :
    validRecord (q ++ [checksum p, complement (checksum p)]) q.length = true :=
  (validRecord_append q _ _).mpr ⟨h, rfl⟩

/-- A change inside the payload leaves the check words. -/
theorem encodeRecord_set (p : List Word) (v : Word) {i : Nat} (hi : i < p.length) :
    (encodeRecord p).set i v = p.set i v ++ [checksum p, complement (checksum p)] :=
  List.set_append_left i v hi

/-- A record with exactly one word changed is invalid, wherever the word stands (rule R144 (c)). -/
theorem validRecord_set_ne (p : List Word) (v : Word) {i : Nat} (hi : i < p.length + 2) (hv : v ≠ (encodeRecord p).getD i 0) :
    validRecord ((encodeRecord p).set i v) p.length = false := by
  refine Bool.eq_false_iff.mpr fun hvalid => hv ?_
  obtain hpay | rfl | rfl : i < p.length ∨ i = p.length ∨ i = p.length + 1 := by omega
  · have h := validRecord_append (p.set i v) (checksum p) (complement (checksum p))
    rw [List.length_set, ← encodeRecord_set p v hpay] at h
    have hsum := (h.mp hvalid).1
    rw [checksum_set p v hpay, add_eq_left, sub_eq_zero] at hsum
    rw [hsum, encodeRecord, List.getD_append _ _ _ _ hpay, List.getD_eq_getElem]
  · have hset : (encodeRecord p).set p.length v = p ++ [v, complement (checksum p)] := by simp [encodeRecord]
    rw [hset, validRecord_append] at hvalid
    simp [encodeRecord, hvalid.1]
  · have hset : (encodeRecord p).set (p.length + 1) v = p ++ [checksum p, v] := by simp [encodeRecord]
    rw [hset, validRecord_append] at hvalid
    simp [encodeRecord, hvalid.2]

/-- Two payload words changed by amounts that cancel modulo 2^32 pass (rule R144 (d)). -/
theorem validRecord_set_set (p : List Word) (v w : Word) {i j : Nat} (hi : i < p.length) (hj : j < p.length) (hij : i ≠ j)
    (h : (v - p[i]) + (w - p[j]) = 0) : validRecord (((encodeRecord p).set i v).set j w) p.length = true := by
  have hj' : j < (p.set i v).length := by rwa [List.length_set]
  have hvalid := validRecord_of_checksum_eq (p := p) (q := (p.set i v).set j w)
    (by rw [checksum_set_set p v w hi hj hij, h, add_zero])
  rw [List.length_set, List.length_set] at hvalid
  rwa [encodeRecord_set p v hi, List.set_append_left j w hj']

/-- Settles O19: a single change moves the sum or breaks the complement, and changes that cancel pass. -/
theorem recordErrorDetection : Obligations.RecordErrorDetection := by
  unfold Obligations.RecordErrorDetection
  refine ⟨validRecord_replicate _, validRecord_replicate _, ?_, ?_, ?_, ?_⟩
  · exact fun p i b hi => validRecord_set_ne p _ hi (flip_ne _ b)
  · intro p i j b hi hj hij hset hclear
    exact validRecord_set_set p _ _ hi hj hij (by rw [flip_sub_of_set hset, flip_sub_of_clear hclear, neg_add_cancel])
  · intro p i j hi hj hij hci hcj
    have htop : (0x80000000 : Word) = requestWord 31 := rfl
    rw [htop]
    exact validRecord_set_set p _ _ hi hj hij (by rw [flip_sub_of_clear (b := 31) hci, flip_sub_of_clear (b := 31) hcj]; rfl)
  · exact fun p q h => validRecord_of_checksum_eq (checksum_perm h)

end Sys2Proof.Machine

namespace Sys2Proof.Machine

/-! ### Slices by the class of their task (rules R217-R219) -/

/-- The first slice of a task that its begin check lets pass is its class's op boundary, in the state that `Begin` left. -/
theorem exec_begins {k : Task} {cls : OpClass} {s t : State} (hcls : (s.taskCfg k).cls = cls)
    (hidle : (s.ctxAt k).phase = .idle) (ht : (classRule k cls).start (beginTask k s) = t)
    (hv : (classRule k cls).valid t = true) : exec (requestInstrs.get k) s = .next ((classRule k cls).boundary t) := by
  have hfs : (t.ctxAt k).fs = .boundary := by
    rw [← ht, ((orderly_classRule k cls).start (beginTask k s)).fs, ctxAt_beginTask]
    rfl
  rw [exec_class k cls s hcls, slice_idle k _ s hidle, ht, if_pos hv, runTask, if_pos hfs]

/-- A slice of a running task at an op boundary is its class's step there (rule R219). -/
theorem exec_boundary {k : Task} {cls : OpClass} {s : State} (hcls : (s.taskCfg k).cls = cls)
    (hphase : (s.ctxAt k).phase = .run) (hfs : (s.ctxAt k).fs = .boundary) :
    exec (requestInstrs.get k) s = .next ((classRule k cls).boundary s) := by
  rw [exec_class k cls s hcls, slice_boundary k _ s hphase hfs]

/-- The command slice of a running task, by its class (rule R219). -/
theorem exec_command {k : Task} {cls : OpClass} {s : State} (hcls : (s.taskCfg k).cls = cls)
    (hphase : (s.ctxAt k).phase = .run) (hfs : (s.ctxAt k).fs = .enabled) :
    exec (requestInstrs.get k) s = .next (commandStep k (classRule k cls) s) := by
  rw [exec_class k cls s hcls, slice_command k _ s hphase hfs]

/-- The poll that finds the Flash idle completes the operation (rule R153). -/
theorem exec_poll_idle {k : Task} {cls : OpClass} {s : State} (hcls : (s.taskCfg k).cls = cls)
    (hphase : (s.ctxAt k).phase = .run) (hfs : (s.ctxAt k).fs = .issued) (hb : s.flash.busy = false) :
    exec (requestInstrs.get k) s = .next (opComplete k (classRule k cls) { s.afterPoll with
      lockV := false, ctx := s.ctx.set k.val { s.ctxAt k with polls := 0, fs := .boundary } }) := by
  rw [exec_class k cls s hcls, slice_poll k _ s hphase hfs, pollStep_idle k _ s hb]

/-! ### First slices (rules R150, R158, R218) -/

/-- A Flash operation that starts once the task's context has been written (rule R150). -/
theorem startFop_withCtx (k : Task) (op : DeviceOp) (c : Ctx) (s : State) :
    startFop k op { s with ctx := s.ctx.set k.val c } = { s.sentFrame .flWren with
      flash := { s.flash with wel := s.flash.wel || !s.flash.busy }
      lockV := true
      lockK := k
      ctx := s.ctx.set k.val { c with fs := .enabled, polls := 0, op := op } } := by
  rw [startFop_eq, ctxAt_withCtx, Vector.set_set]
  rfl

/-- The same of a write operation to an FRAM (rule R158). -/
theorem startWop_withCtx (k : Task) (d : FramSel) (op : DeviceOp) (c : Ctx) (s : State) :
    startWop k d op { s with ctx := s.ctx.set k.val c } = ({ s.sentFrame (.frWren d) with
      lockV := true
      lockK := k
      ctx := s.ctx.set k.val { c with fs := .enabled, op := op } } : State).setFram d
        { s.fram d with wel := true } := by
  rw [startWop_eq, ctxAt_withCtx, Vector.set_set]
  cases d <;> rfl

/-- Settles O28: each class passes its begin check, and its op boundary starts the operation that the class names. -/
theorem flashTasksBegin : Obligations.FlashTasksBegin := by
  unfold Obligations.FlashTasksBegin
  intro k op s hidle hkind
  obtain ⟨cls, hcls, hstart, hvalid, hboundary⟩ : ∃ cls, (s.taskCfg k).cls = cls ∧
      (classRule k cls).start (beginTask k s) = beginTask k s ∧
      (classRule k cls).valid (beginTask k s) = true ∧
      (classRule k cls).boundary (beginTask k s) = startFop k op (beginTask k s) := by
    have hctx := ctxAt_beginTask k s
    have haddr : ((beginTask k s).ctxAt k).addr = (s.ctxAt k).addr := by rw [hctx]; rfl
    have hcount : ((beginTask k s).ctxAt k).n = (s.ctxAt k).n := by rw [hctx]; rfl
    rcases hkind with ⟨hcls, rfl⟩ | ⟨hcls, rfl⟩ | ⟨hcls, rfl, hn⟩ | ⟨hcls, rfl⟩ | ⟨hcls, rfl, hdevs, h1, hmax, hprot⟩
    · exact ⟨_, hcls, rfl, rfl, by rw [← haddr]; rfl⟩
    · exact ⟨_, hcls, rfl, rfl, by rw [← haddr]; rfl⟩
    · rw [← hcount] at hn
      exact ⟨_, hcls, rfl, (pageWriteRule_valid k _).mpr hn, by rw [← haddr, ← hcount]; rfl⟩
    · exact ⟨_, hcls, rfl, rfl, rfl⟩
    · refine ⟨_, hcls, rfl, (calWriteRule_valid k _).mpr ⟨hdevs, h1, hmax⟩, ?_⟩
      have hpass := calWriteBoundary_pass k (beginTask k s) (.inl hprot)
      rw [calWriteOp_eq, hctx] at hpass
      exact hpass
  rw [exec_begins hcls hidle hstart hvalid, hboundary, beginTask_eq, startFop_withCtx]
  rfl

/-- The write operation of a record write: the copy at its OPI (rules R170, R173). -/
theorem recordWriteOp_eq {k : Task} {s : State} {d : FramSel} (hdevs : (s.taskCfg k).devs = [d.dev]) :
    recordWriteOp k s = .fram d (BitVec.ofNat 24
      (((s.taskCfg k).addr.toNat + if (s.ctxAt k).opi = 0 then 0 else s.cfg.rrOffFram) % s.cfg.framBytes d.dev))
      (2 * ((s.taskCfg k).len + 2)) := by
  rw [recordWriteOp, recordFram_eq_some _ d hdevs]
  by_cases hopi : (s.ctxAt k).opi = 0#4 <;> simp [framCopyAddr, framAddr, hopi]

/-- The write operation of a raw FRAM write: the context's device, address and count (rule R234). -/
theorem framWriteOp_eq {k : Task} {s : State} {d : FramSel} (hdev : devOfSelector (s.ctxAt k).dev = some d.dev)
    (hmem : d.dev ∈ (s.taskCfg k).devs) : framWriteOp k s =
      .fram d (BitVec.ofNat 24 ((s.ctxAt k).addr.toNat % s.cfg.framBytes d.dev)) (s.ctxAt k).n.toNat := by
  have hsel : selectedDev k s = some d.dev := (selectedDev_eq_some k s d.dev).mpr ⟨hdev, hmem⟩
  simp only [framWriteOp, hsel, framSel_dev, framAddr]

/-- Settles O29: both classes pass their begin check, and their op boundary starts the write operation. -/
theorem framTasksBegin : Obligations.FramTasksBegin := by
  unfold Obligations.FramTasksBegin
  intro k d a n s hidle hkind
  obtain ⟨cls, hcls, hstart, hvalid, hboundary⟩ : ∃ cls, (s.taskCfg k).cls = cls ∧
      (classRule k cls).start (beginTask k s) = beginTask k s ∧
      (classRule k cls).valid (beginTask k s) = true ∧
      (classRule k cls).boundary (beginTask k s) = startOp k (.fram d a n) (beginTask k s) := by
    have hctx := ctxAt_beginTask k s
    rcases hkind with ⟨hcls, hdevs, h1, hmax, rfl, rfl⟩ | ⟨hcls, hdev, hmem, h1, h2, rfl, rfl⟩
    · refine ⟨_, hcls, rfl, (recordWriteRule_valid k _).mpr ⟨⟨d, hdevs⟩, h1, hmax⟩, ?_⟩
      have hop := recordWriteOp_eq (k := k) (s := beginTask k s) hdevs
      rw [hctx] at hop
      exact congrArg (startOp k · _) hop
    · have hdev' : devOfSelector ((beginTask k s).ctxAt k).dev = some d.dev := by rw [hctx]; exact hdev
      refine ⟨_, hcls, rfl, (framWriteRule_valid k _).mpr ⟨⟨d, hdev', hmem⟩, by rw [hctx]; exact ⟨h1, h2⟩⟩, ?_⟩
      have hop := framWriteOp_eq (k := k) (s := beginTask k s) hdev' hmem
      rw [hctx] at hop
      exact congrArg (startOp k · _) hop
  rw [exec_begins hcls hidle hstart hvalid, hboundary, startOp, beginTask_eq, startWop_withCtx]

/-! ### The next operation of a record's sequence (rules R173, R179, R180) -/

/-- The operation of a calibration write, as rule R179 lists it. -/
theorem calOp_eq_of_mem {p : Params} {c : TaskCfg} {opi : BitVec 4} {op : DeviceOp}
    (h : (opi, op) ∈ [((0 : BitVec 4), DeviceOp.se c.packed), (1, .prog c.packed (2 * (c.len + 2))),
      (2, .se (c.packed + p.rrOffFlash)), (3, .prog (c.packed + p.rrOffFlash) (2 * (c.len + 2))), (4, .protect)]) :
    calOp p c opi = op := by
  simp only [List.mem_cons, Prod.mk.injEq, List.not_mem_nil, or_false] at h
  rcases h with ⟨rfl, rfl⟩ | ⟨rfl, rfl⟩ | ⟨rfl, rfl⟩ | ⟨rfl, rfl⟩ | ⟨rfl, rfl⟩ <;> rfl

/-- Settles O34: the op boundary of each class starts the operation at its OPI. -/
theorem recordTasksContinue : Obligations.RecordTasksContinue := by
  unfold Obligations.RecordTasksContinue
  intro k s op hphase hfs
  refine ⟨fun hcls hop hprot => ?_, fun d hcls hdevs hop => ?_⟩
  · have hpass : s.prot = false ∨ 4 ≤ (s.ctxAt k).opi.toNat := by
      by_cases h4 : (s.ctxAt k).opi = 4
      · exact .inr (by rw [h4]; decide)
      · exact .inl (hprot h4)
    rw [exec_boundary hcls hphase hfs]
    show Host.Outcome.next (calWriteBoundary k s) = _
    rw [calWriteBoundary_pass k s hpass, calWriteOp_eq, calOp_eq_of_mem hop, startFop_eq]
  · subst hop
    rw [exec_boundary hcls hphase hfs]
    show Host.Outcome.next (startOp k (recordWriteOp k s) s) = _
    rw [recordWriteOp_eq hdevs]
    exact congrArg _ (startWop_eq k d _ s)

/-! ### The command slice of a calibration write (rules R151, R152, R179, R180) -/

/-- The operation that a calibration write keeps is the one at its OPI. -/
theorem State.OpOk.calWrite {s : State} (h : s.OpOk) {k : Task} (hcls : (s.taskCfg k).cls = .calWrite)
    (hfs : (s.ctxAt k).fs = .enabled) : (s.ctxAt k).op = calOp s.cfg (s.taskCfg k) (s.ctxAt k).opi := by
  obtain ⟨-, hseq⟩ := h k (by rw [hfs]; decide)
  simp only [State.SequenceOp, hcls] at hseq
  exact hseq

/-- The unlock task keeps the unlock operation (rule R181). -/
theorem State.OpOk.calUnlock {s : State} (h : s.OpOk) {k : Task} (hcls : (s.taskCfg k).cls = .calUnlock)
    (hfs : (s.ctxAt k).fs = .enabled) : (s.ctxAt k).op = .unlock := by
  obtain ⟨-, hseq⟩ := h k (by rw [hfs]; decide)
  simpa only [State.SequenceOp, hcls] using hseq

/-- A record write keeps the write of the copy at its OPI (rules R170, R173). -/
theorem State.OpOk.rrWrite {s : State} (h : s.OpOk) {k : Task} (hcls : (s.taskCfg k).cls = .rrWrite)
    (hfs : (s.ctxAt k).fs = .enabled) {d : FramSel} (hdevs : (s.taskCfg k).devs = [d.dev]) :
    (s.ctxAt k).op = .fram d (BitVec.ofNat 24
      (((s.taskCfg k).addr.toNat + if (s.ctxAt k).opi = 0 then 0 else s.cfg.rrOffFram) % s.cfg.framBytes d.dev))
      (2 * ((s.taskCfg k).len + 2)) := by
  obtain ⟨-, hseq⟩ := h k (by rw [hfs]; decide)
  simp only [State.SequenceOp, hcls] at hseq
  exact hseq d hdevs

/-- The first four operations: erase and program of the primary copy, then of the secondary (rule R179). -/
theorem calOp_of_lt (p : Params) (c : TaskCfg) {opi : BitVec 4} (h : opi.toNat < 4) :
    calOp p c opi =
      if opi.toNat % 2 = 0 then .se (if opi.toNat < 2 then c.packed else c.packed + p.rrOffFlash)
      else .prog (if opi.toNat < 2 then c.packed else c.packed + p.rrOffFlash) (2 * (c.len + 2)) := by
  obtain rfl | rfl | rfl | rfl : opi = 0 ∨ opi = 1 ∨ opi = 2 ∨ opi = 3 := by bv_omega
  all_goals rfl

/-- Settles O33: the kept operation is an erase at an even OPI, else a program of the record, of the copy at `p`. -/
theorem calibrationCommandSlice : Obligations.CalibrationCommandSlice := by
  unfold Obligations.CalibrationCommandSlice
  intro frame op k s p hok hcls hopi h1 h62 hp hframe hphase hfs
  have hkept := hok.calWrite hcls hfs
  rw [calOp_of_lt _ _ hopi, ← hp] at hkept
  obtain ⟨hstep, hwf, htarget⟩ : commandStep k (calWriteRule k) s = (transact frame s).setFs k .issued ∧
      frame.WellFormed ∧ flashTarget s.cfg frame = some op := by
    by_cases heven : (s.ctxAt k).opi.toNat % 2 = 0
    · rw [if_pos heven, Prod.mk.injEq] at hframe
      rw [if_pos heven] at hkept
      obtain ⟨rfl, rfl⟩ := hframe
      exact ⟨commandStep_se k _ s p hkept, rfl, rfl⟩
    · rw [if_neg heven, Prod.mk.injEq] at hframe
      rw [if_neg heven] at hkept
      obtain ⟨rfl, rfl⟩ := hframe
      have hlen := length_recordHalves (s.ctxAt k) (s.taskCfg k).len h62
      exact ⟨commandStep_prog k _ s p _ hkept, illFormed_flPp p _ (by omega) (by omega), rfl⟩
  rw [exec_command hcls hphase hfs]
  show Host.Outcome.next (commandStep k (calWriteRule k) s) = _
  rw [hstep, transact_flashCommand hwf htarget]
  rfl

/-! ### What completes an operation (rules R152-R154, R158, R217) -/

/-- A busy poll under a limit: the one that reaches it ends the task TIMEOUT (rule R154). -/
theorem pollLimit_some {k : Task} {t : State} {v : Vector Ctx 32} {c : Ctx} {limit : Nat} (h : t.ctx = v.set k.val c)
    (hlimit : t.cfg.busyPollLimit = some limit) : pollLimit k t =
      if c.polls.toNat = limit then
        finish k .timeout { t with lockV := false, ctx := v.set k.val { c with fs := .boundary, pend := 0 } }
      else t := by
  simp only [pollLimit, hlimit, ctxAt_of_ctx h, Option.some.injEq, eq_comm (a := limit)]
  rw [modCtx_of_ctx (t := t.dropLock) h]
  rfl

/-- Settles O36: a poll of a busy Flash, then the limit. -/
theorem pollLimitEndsTimeout : Obligations.PollLimitEndsTimeout := by
  unfold Obligations.PollLimitEndsTimeout
  intro k s limit hphase hfs hb hlimit
  refine ⟨nextPolls (s.ctxAt k).polls, nextPolls_toNat _, ?_⟩
  rw [exec_request, slice_poll k _ s hphase hfs, pollStep_busy k _ s hb]
  refine congrArg _ (pollLimit_some (c := { s.ctxAt k with polls := nextPolls (s.ctxAt k).polls }) rfl ?_)
  exact hlimit

/-- A commit that leaves work: the task goes on, or is withdrawn where its request is clear (rule R217). -/
theorem opComplete_continues {k : Task} {r : ClassRule} {s u : State} (hr : r.captures = false)
    (hcommit : r.commit s = (u, none)) : opComplete k r s = if bitAt u.req k = true then u else withdraw k u := by
  rw [opComplete_plain k r s hr, hcommit]

/-- A commit that leaves none: the task ends (rule R217). -/
theorem opComplete_finishes {k : Task} {r : ClassRule} {s u : State} {st : Status} (hr : r.captures = false)
    (hcommit : r.commit s = (u, some st)) : opComplete k r s = finish k st u := by
  rw [opComplete_plain k r s hr, hcommit]

/-- Settles O37: the three classes are of one operation, whose completion ends the task OK. -/
theorem singleFlashTaskCompletes : Obligations.SingleFlashTaskCompletes := by
  unfold Obligations.SingleFlashTaskCompletes
  intro k s hcls hphase hfs hb
  rw [exec_poll_idle rfl hphase hfs hb]
  simp only [List.mem_cons, List.not_mem_nil, or_false] at hcls
  rcases hcls with hcls | hcls | hcls <;> rw [hcls] <;> exact congrArg _ (opComplete_finishes rfl rfl)

section commits
variable {k : Task} {t : State} {v : Vector Ctx 32} {c : Ctx}

/-- After each of its first four operations a calibration write advances OPI (rule R179). -/
theorem calWrite_commit_lt (h : t.ctx = v.set k.val c) (hopi : c.opi.toNat < 4) :
    (calWriteRule k).commit t = ({ t with ctx := v.set k.val { c with opi := c.opi + 1 } }, none) := by
  simp only [calWriteRule, ctxAt_of_ctx h, if_pos hopi, modCtx_of_ctx h]

/-- After the protect step it sets PROT and ends OK (rule R180). -/
theorem calWrite_commit_protect (h : t.ctx = v.set k.val c) (hopi : c.opi = 4) :
    (calWriteRule k).commit t = (t.setProt true, some .ok) := by
  have h4 : ¬c.opi.toNat < 4 := by rw [hopi]; decide
  simp only [calWriteRule, ctxAt_of_ctx h, if_neg h4]

/-- After its primary copy a record write goes on at OPI = 1 (rule R173). -/
theorem recordWrite_commit_primary (h : t.ctx = v.set k.val c) (hopi : c.opi = 0) :
    (recordWriteRule k).commit t = ({ t with ctx := v.set k.val { c with opi := 1 } }, none) := by
  simp only [recordWriteRule, ctxAt_of_ctx h, if_pos hopi, modCtx_of_ctx h]

/-- After its secondary copy it ends OK. -/
theorem recordWrite_commit_secondary (h : t.ctx = v.set k.val c) (hopi : c.opi ≠ 0) :
    (recordWriteRule k).commit t = (t, some .ok) := by
  simp only [recordWriteRule, ctxAt_of_ctx h, if_neg hopi]

end commits

/-- Settles O38: the commit of the calibration write at an OPI below 4. -/
theorem calibrationWriteAdvances : Obligations.CalibrationWriteAdvances := by
  unfold Obligations.CalibrationWriteAdvances
  rintro k s u hcls hphase hfs hopi hb rfl
  rw [exec_poll_idle hcls hphase hfs hb]
  exact congrArg _ (opComplete_continues rfl (calWrite_commit_lt (c := { s.ctxAt k with polls := 0, fs := .boundary }) rfl hopi))

/-- Settles O40: the frame of the kept operation, and the completion that writes PROT. -/
theorem protectionStepsComplete : Obligations.ProtectionStepsComplete := by
  unfold Obligations.ProtectionStepsComplete
  rintro frame bp k s hok hkind hphase hfs
  rcases hkind with ⟨hcls, rfl, rfl⟩ | ⟨hcls, hopi, rfl, rfl⟩
  · rw [exec_command hcls hphase hfs, commandStep_unlock k _ s (hok.calUnlock hcls hfs), transact_flUlbpr_state]
    exact congrArg _ (opComplete_finishes rfl rfl)
  · have hop : (s.ctxAt k).op = .protect := by rw [hok.calWrite hcls hfs, hopi]; rfl
    rw [exec_command hcls hphase hfs, commandStep_protect k _ s hop, transact_flProtect_state]
    exact congrArg _ (opComplete_finishes rfl (calWrite_commit_protect rfl hopi))

/-! ### The write slices to an FRAM (rules R77, R158) -/

/-- The write slice of a WOP, up to its completion (rule R158). -/
theorem exec_framWrite {k : Task} {cls : OpClass} {s : State} {d : FramSel} {a : FramAddr} {n : Nat} {words : List Half}
    (hcls : (s.taskCfg k).cls = cls) (hphase : (s.ctxAt k).phase = .run) (hfs : (s.ctxAt k).fs = .enabled)
    (hop : (s.ctxAt k).op = .fram d a n) (hdata : (classRule k cls).data n s = (s, words)) (h1 : 1 ≤ words.length)
    (h128 : words.length ≤ 128) : exec (requestInstrs.get k) s = .next (opComplete k (classRule k cls)
      (({ s.sentFrame (.frWrite d a (halvesBytes words)) with
        lockV := false
        ctx := s.ctx.set k.val { s.ctxAt k with fs := .boundary } } : State).setFram d
          ⟨framWritten s.cfg d a (halvesBytes words) (s.fram d), false⟩)) := by
  have hlen := length_halvesBytes words
  have hwf : (Instr.frWrite d a (halvesBytes words)).illFormed = none :=
    illFormed_frWrite d a _ (by omega) (by omega)
  rw [exec_command hcls hphase hfs, commandStep_fram k _ s d a n hop, hdata, transact_frWrite_state _ _ _ _ hwf]
  cases d <;> rfl

/-- What a write frame leaves in the array: nothing of its own where the FRAM is not enabled, else at each address the last
byte that falls on it; and no other byte in either case (rules R77, R132). -/
theorem framWritten_bytes (p : Params) (d : FramSel) (a : FramAddr) (bytes : List Byte) (f : Fram) :
    (f.wel = false → framWritten p d a bytes f = f.array) ∧
    (f.wel = true → ∀ j (h : j < bytes.length),
      (∀ l, j < l → l < bytes.length → (a.toNat + l) % p.framBytes d.dev ≠ (a.toNat + j) % p.framBytes d.dev) →
      (framWritten p d a bytes f).read ((a.toNat + j) % p.framBytes d.dev) = bytes[j]) ∧
    (∀ x, (∀ j < bytes.length, (a.toNat + j) % p.framBytes d.dev ≠ x) →
      (framWritten p d a bytes f).read x = f.array.read x) := by
  rw [framWritten]
  cases f.wel with
  | false => exact ⟨fun _ => rfl, fun h => absurd h (by decide), fun _ _ => rfl⟩
  | true =>
    exact ⟨fun h => absurd h (by decide), fun _ => read_writeWrap_last _ bytes _ _, read_writeWrap_outside _ bytes _ _⟩

/-- Settles O42: the write slice of a class of one operation, whose data is BUF. -/
theorem framWriteTaskStores : Obligations.FramWriteTaskStores := by
  unfold Obligations.FramWriteTaskStores
  rintro k d s a n bytes hcls hphase hfs hop h1 h128 rfl
  refine ⟨_, ?_, framWritten_bytes s.cfg d a _ (s.fram d)⟩
  have hlen := length_bufWords (s.ctxAt k) n h128
  rw [exec_framWrite (words := (s.ctxAt k).bufWords n) hcls hphase hfs hop rfl (by omega) (by omega)]
  exact congrArg _ (opComplete_finishes rfl rfl)

/-- Settles O41: the write slice of the kept copy, and the commit at OPI 0 and 1. -/
theorem recordWriteStoresCopy : Obligations.RecordWriteStoresCopy := by
  unfold Obligations.RecordWriteStoresCopy
  intro k d s a hok hcls hdevs h1 h62 hphase hfs hopi ha
  have hop := hok.rrWrite hcls hfs hdevs
  rw [← ha] at hop
  have hlen := length_recordHalves (s.ctxAt k) (s.taskCfg k).len h62
  refine ⟨_, _, rfl, ?_, framWritten_bytes s.cfg d a (s.recordBytes k) (s.fram d)⟩
  rw [exec_framWrite (words := recordHalves (s.ctxAt k) (s.taskCfg k).len) hcls hphase hfs hop rfl (by omega) (by omega)]
  obtain hfirst | hsecond : (s.ctxAt k).opi = 0 ∨ (s.ctxAt k).opi = 1 := by bv_omega
  · rw [if_neg (by rw [hfirst]; decide), classRule,
      opComplete_continues rfl (recordWrite_commit_primary (v := s.ctx) (c := { s.ctxAt k with fs := .boundary }) ?_ hfirst)]
    · cases d <;> rfl
    · exact setFram_ctx _ _ _
  · have hsame : ({ s.ctxAt k with fs := .boundary, opi := 1 } : Ctx) = { s.ctxAt k with fs := .boundary } := by
      rw [← hsecond]
    rw [if_pos hsecond, hsame]
    exact congrArg _ (opComplete_finishes rfl
      (recordWrite_commit_secondary (c := { s.ctxAt k with fs := .boundary }) (setFram_ctx _ _ _) (by rw [hsecond]; decide)))

/-! ### The op boundary of a capture (rules R191, R193, R194) -/

/-- NZERO of a capture, in the terms of rule R191. -/
theorem zeroCount_eq (size : Nat) (r : Ring) (rstart : BitVec 32) : zeroCount size r rstart =
    if r.filled = false ∧ r.w.toNat ≤ rstart.toNat then BitVec.ofNat 33 (size - rstart.toNat) else 0 := by
  simp [zeroCount, BitVec.le_def]

/-- The op boundary of a capture (rules R193, R194): retired, or the erase or the page program begins. -/
theorem captureBoundary_eq (k : Task) (s : State) : captureBoundary k s =
    if (s.ctxAt k).abort = true then retire k s
    else { s.sentFrame .flWren with
      flash := { s.flash with wel := s.flash.wel || !s.flash.busy }
      lockV := true
      lockK := k
      ctx := s.ctx.set k.val (
        if (s.ctxAt k).needErase = true then
          { s.ctxAt k with opi := 0, fs := .enabled, polls := 0, op := .se (s.ctxAt k).addr }
        else { s.ctxAt k with
          opi := 1, fs := .enabled, polls := 0
          op := .prog (s.ctxAt k).addr (setsInPage (s.ctxAt k).count * s.cfg.setWords)
          pend := BitVec.ofNat 3 (setsInPage (s.ctxAt k).count) }) } := by
  simp only [captureBoundary]
  split
  · rfl
  · split
    · exact startFop_withCtx k _ { s.ctxAt k with opi := 0 } s
    · exact startFop_withCtx k _ { s.ctxAt k with opi := 1, pend := BitVec.ofNat 3 (setsInPage (s.ctxAt k).count) } s

/-- Settles O47: the op boundary of the class. -/
theorem captureOpBoundary : Obligations.CaptureOpBoundary := by
  unfold Obligations.CaptureOpBoundary
  rintro k s m hcls hphase hfs rfl
  rw [exec_boundary hcls hphase hfs]
  exact congrArg _ (captureBoundary_eq k s)

/-- The state in which a capture makes its first op boundary (rule R191). -/
theorem captureStart_beginTask (k : Task) (s : State) : captureStart k (beginTask k s) = { s with
    ctx := s.ctx.set k.val { s.begun k with
      count := 0
      pend := 0
      needErase := true
      nzero := if s.ring.filled = false ∧ s.ring.w.toNat ≤ (s.ctxAt k).rstart.toNat then
          BitVec.ofNat 33 (s.cfg.ringN - (s.ctxAt k).rstart.toNat)
        else 0 } } := by
  rw [← zeroCount_eq]
  exact modCtx_beginTask k _ s

/-- Settles O46: a capture has no begin check, and its first op boundary finds NEED_ERASE = 1. -/
theorem captureBegins : Obligations.CaptureBegins := by
  unfold Obligations.CaptureBegins
  rintro k s c hcls hidle hc
  have hstart := captureStart_beginTask k s
  rw [← hc] at hstart
  rw [exec_begins hcls hidle hstart rfl]
  show Host.Outcome.next (captureBoundary k _) = _
  rw [captureBoundary_eq, ctxAt_withCtx, Vector.set_set]
  subst hc
  rfl

end Sys2Proof.Machine

namespace Sys2Proof.Machine

/-- Settles O39: the PROT check of the op boundary, in the first slice and in each that follows. -/
theorem calibrationWriteRefused : Obligations.CalibrationWriteRefused := by
  unfold Obligations.CalibrationWriteRefused
  intro k s hcls hprot
  refine ⟨fun hidle hdevs h1 hmax => ?_, fun hphase hfs hopi => ?_⟩
  · have hvalid : (calWriteRule k).valid (beginTask k s) = true := (calWriteRule_valid k _).mpr ⟨hdevs, h1, hmax⟩
    have hopi : ((beginTask k s).ctxAt k).opi.toNat < 4 := by rw [ctxAt_beginTask]; exact Nat.zero_lt_succ 3
    rw [exec_begins hcls hidle rfl hvalid]
    exact congrArg _ (calWriteBoundary_refused k (beginTask k s) hprot hopi)
  · rw [exec_boundary hcls hphase hfs]
    exact congrArg _ (calWriteBoundary_refused k s hprot hopi)

/-! ### The words of a record read back (rules R143, R170, R175) -/

/-- The word in bytes `4i..4i+3`, most significant first (rule R170). -/
def wordAt (bytes : List Byte) (i : Nat) : Word :=
  (bytes.getD (4 * i) 0 ++ bytes.getD (4 * i + 1) 0 : Half) ++ (bytes.getD (4 * i + 2) 0 ++ bytes.getD (4 * i + 3) 0 : Half)

theorem recordOf_eq_map_wordAt : ∀ (n : Nat) (bytes : List Byte), bytes.length = 4 * n →
    recordOf bytes = (List.range n).map (wordAt bytes)
  | 0, bytes, h => by
    obtain rfl := List.length_eq_zero_iff.mp h
    rfl
  | n + 1, a :: b :: c :: e :: bytes, h => by
    have hrest : bytes.length = 4 * n := by simp only [List.length_cons] at h; omega
    have hshift : wordAt (a :: b :: c :: e :: bytes) ∘ Nat.succ = wordAt bytes := rfl
    rw [List.range_succ_eq_map, List.map_cons, List.map_map, hshift, ← recordOf_eq_map_wordAt n bytes hrest]
    rfl
  | n + 1, [], h | n + 1, [_], h | n + 1, [_, _], h | n + 1, [_, _, _], h => by
    simp only [List.length_cons, List.length_nil] at h
    omega

theorem validRecord_iff (r : List Word) (len : Nat) : validRecord r len = true ↔
    (r.take len).foldl (· + ·) 0 = r.getD len 0 ∧ r.getD (len + 1) 0 = ~~~(r.getD len 0) := by
  rw [validRecord, Bool.and_eq_true, beq_iff_eq, beq_iff_eq, checksum, complement]

/-- Word `i` of the caller's default (rule R176). -/
theorem getD_defaults (c : Ctx) {len : Nat} (h62 : len ≤ 62) {i : Fin 62} (hi : i.val < len) :
    (c.defaults len).getD i.val 0 = c.dflt.get i := by
  have hlen := length_defaults c len h62
  rw [List.getD_eq_getElem _ _ (by omega)]
  simp [Ctx.defaults, Vector.get_eq_getElem]

/-! ### The frame that reads a copy (rules R62, R170, R175) -/

/-- The bytes of a record's copy as they stand in its device. -/
def State.copyBytes (s : State) (c : TaskCfg) (d : Dev) (second : Bool) : List Byte :=
  (s.arrayOf d).readWrap (s.sizeOf d) (s.copyStart c d second) (4 * (c.len + 2))

theorem copyBytes_framSel (s : State) (c : TaskCfg) (e : FramSel) (second : Bool) : s.copyBytes c e.dev second =
    (s.fram e).array.readWrap (s.cfg.framBytes e.dev) (framCopyAddr s.cfg c e.dev second).toNat
      (2 * recordWordCount c.len) := by
  have hcount : 2 * recordWordCount c.len = 4 * (c.len + 2) := by rw [recordWordCount_eq]; omega
  rw [hcount]
  cases e <;> rfl

theorem copyFrame_framSel (p : Params) (c : TaskCfg) (e : FramSel) (second : Bool) :
    copyFrame p c e.dev second = .frRead e (framCopyAddr p c e.dev second) (2 * recordWordCount c.len) := by
  cases e <;> rfl

/-- The frame that reads a copy as a whole state, with the bytes it returns. -/
theorem transact_copyFrame (s : State) {c : TaskCfg} (d : Dev) (second : Bool) (h62 : c.len ≤ 62) :
    ∃ (bytes : List Byte) (free : Nat),
      transact (copyFrame s.cfg c d second) s =
        { s.afterRead (copyFrame s.cfg c d second) bytes with env := { s.env with free := free } } ∧
      bytes.length = 4 * (c.len + 2) ∧
      (¬(d = .flash ∧ s.flash.busy = true) → free = s.env.free ∧
        ∀ j (h : j < bytes.length), bytes[j] = (s.arrayOf d).read ((s.copyStart c d second + j) % s.sizeOf d)) := by
  have hcount := recordWordCount_eq c.len
  have fram (e : FramSel) : transact (copyFrame s.cfg c e.dev second) s =
      s.afterRead (copyFrame s.cfg c e.dev second) (s.copyBytes c e.dev second) := by
    rw [copyFrame_framSel, copyBytes_framSel]
    exact transact_frRead_state _ _ _ s (illFormed_frRead _ _ _ (by omega) (by omega))
  cases d with
  | flash =>
    have hread := transact_flRead_state (byteAddrOf (flashCopyAddr s.cfg c second)) (recordWordCount c.len) s
      (illFormed_flRead _ _ (by omega) (by omega))
    by_cases hb : s.flash.busy = true
    · rw [if_pos hb] at hread
      exact ⟨_, _, hread, by rw [length_freeBytes]; omega, fun h => absurd ⟨rfl, hb⟩ h⟩
    · rw [if_neg hb] at hread
      exact ⟨_, s.env.free, hread, by rw [length_readWrap]; omega, fun _ => ⟨rfl, getElem_readWrap _ _ _ _⟩⟩
  | fram1 => exact ⟨_, s.env.free, fram .fram1, length_readWrap _ _ _ _, fun _ => ⟨rfl, getElem_readWrap _ _ _ _⟩⟩
  | fram2 => exact ⟨_, s.env.free, fram .fram2, length_readWrap _ _ _ _, fun _ => ⟨rfl, getElem_readWrap _ _ _ _⟩⟩

/-- A copy's address in an FRAM, for an array that 24 address bits reach (rules R62, R170). -/
theorem toNat_framCopyAddr {p : Params} {e : FramSel} (hsize : 1 ≤ p.framBytes e.dev ∧ p.framBytes e.dev ≤ 16777216)
    (c : TaskCfg) (second : Bool) : (framCopyAddr p c e.dev second).toNat =
      (if second = true then c.addr.toNat + p.rrOffFram else c.addr.toNat) % p.framBytes e.dev := by
  obtain ⟨hpos, hmax⟩ := hsize
  have hlt := Nat.mod_lt (if second = true then c.addr.toNat + p.rrOffFram else c.addr.toNat) hpos
  rw [framCopyAddr, framAddr, BitVec.toNat_ofNat, Nat.mod_eq_of_lt (by omega)]

/-- The frame and the first byte that rules R170 and R175 give are those of the model. -/
theorem copyRead_eq {s : State} {c : TaskCfg} {d : Dev} {second : Bool} {frame : Instr} {start : Nat}
    (h : (frame, start) = (match d with
      | .flash => (.flRead (flashCopyAddr s.cfg c second ++ 0#8) (2 * (c.len + 2)),
          (flashCopyAddr s.cfg c second).toNat * 256)
      | .fram1 => (.frRead .fram1 (BitVec.ofNat 24 start) (4 * (c.len + 2)),
          (if second = true then c.addr.toNat + s.cfg.rrOffFram else c.addr.toNat) % s.cfg.framBytes1)
      | .fram2 => (.frRead .fram2 (BitVec.ofNat 24 start) (4 * (c.len + 2)),
          (if second = true then c.addr.toNat + s.cfg.rrOffFram else c.addr.toNat) % s.cfg.framBytes2)))
    (hsize : ∀ e : FramSel, d = e.dev → 1 ≤ s.cfg.framBytes e.dev ∧ s.cfg.framBytes e.dev ≤ 16777216) :
    frame = copyFrame s.cfg c d second ∧ start = s.copyStart c d second := by
  have hcount : 4 * (c.len + 2) = 2 * recordWordCount c.len := by rw [recordWordCount_eq]; omega
  have fram (e : FramSel) (he : d = e.dev) (hframe : frame = .frRead e (BitVec.ofNat 24 start) (4 * (c.len + 2)))
      (hstart : start = (if second = true then c.addr.toNat + s.cfg.rrOffFram else c.addr.toNat) % s.cfg.framBytes e.dev) :
      frame = copyFrame s.cfg c e.dev second ∧ start = (framCopyAddr s.cfg c e.dev second).toNat := by
    rw [← toNat_framCopyAddr (hsize e he)] at hstart
    rw [hframe, hstart, copyFrame_framSel, BitVec.ofNat_toNat, BitVec.setWidth_eq, hcount]
    exact ⟨rfl, rfl⟩
  cases d with
  | flash =>
    obtain ⟨hframe, hstart⟩ := Prod.mk.inj h
    rw [Nat.mul_comm, ← toNat_byteAddrOf] at hstart
    exact ⟨hframe, hstart⟩
  | fram1 =>
    obtain ⟨hframe, hstart⟩ := Prod.mk.inj h
    exact fram .fram1 rfl hframe hstart
  | fram2 =>
    obtain ⟨hframe, hstart⟩ := Prod.mk.inj h
    exact fram .fram2 rfl hframe hstart

/-! ### The slices of a record read (rules R174-R176) -/

section steps
variable {k : Task} {s t : State} {v : Vector Ctx 32} {c : Ctx} {d : Dev} {bytes : List Byte}

/-- A record accepted into VAL (rule R175). -/
theorem acceptRecord_of_ctx (h : t.ctx = v.set k.val c) (len : Nat) (words : List Word) (src : Src) :
    acceptRecord k len words src t =
      finish k .ok { t with ctx := v.set k.val { c with val := (c.withVal len words).val, src := src } } := by
  rw [acceptRecord, modCtx_of_ctx h, Ctx.withVal]

/-- The default taken into VAL, with the soft fault raised (rule R176). -/
theorem defaultRead_of_ctx (h : t.ctx = v.set k.val c) (len : Nat) : defaultRead k len t =
    finish k .defaulted { t with
      sflt := t.sflt ||| requestWord k
      ctx := v.set k.val { c with val := (c.withVal len (c.defaults len)).val, src := .default } } := by
  rw [defaultRead, modCtx_of_ctx h, Ctx.withVal, setBit]
  rfl

/-- The step of a record read whose frame left `t` with `bytes` received, by the copy that its OPI names. -/
theorem recordReadStep_eq {second : Bool} (hdevs : (s.taskCfg k).devs = [d]) (hopi : ((s.ctxAt k).opi != 0) = second)
    (ht : transact (copyFrame s.cfg (s.taskCfg k) d second) s = t) (hrx : t.port.rx = .data bytes) : recordReadStep k s =
      if validRecord (recordOf bytes) (s.taskCfg k).len = true then
        acceptRecord k (s.taskCfg k).len (recordOf bytes) (if second = true then .secondary else .primary) t
      else if second = true then defaultRead k (s.taskCfg k).len t
      else t.modCtx k fun c => { c with opi := 1 } := by
  simp only [recordReadStep, (taskDev_eq_some _ d).mpr hdevs, hopi, ht, hrx, Received.bytes]

/-- At OPI = 0 it accepts the primary copy or goes on to the secondary (rule R175). -/
theorem recordReadStep_primary (hdevs : (s.taskCfg k).devs = [d]) (hopi : (s.ctxAt k).opi = 0)
    (ht : transact (copyFrame s.cfg (s.taskCfg k) d false) s = t) (hrx : t.port.rx = .data bytes)
    (hctx : t.ctx = v.set k.val c) : recordReadStep k s =
      if validRecord (recordOf bytes) (s.taskCfg k).len = true then
        finish k .ok { t with
          ctx := v.set k.val { c with val := (c.withVal (s.taskCfg k).len (recordOf bytes)).val, src := .primary } }
      else { t with ctx := v.set k.val { c with opi := 1 } } := by
  rw [recordReadStep_eq hdevs (by rw [hopi]; rfl) ht hrx, acceptRecord_of_ctx hctx, modCtx_of_ctx hctx]
  rfl

/-- What a record read takes into VAL after its secondary copy: the copy's words where it is valid, else the caller's
default (rules R175, R176). -/
def secondaryWords (c : Ctx) (len : Nat) (words : List Word) : List Word :=
  if validRecord words len = true then words else c.defaults len

theorem getD_secondaryWords (c : Ctx) {len : Nat} (words : List Word) (h62 : len ≤ 62) {i : Fin 62} (hi : i.val < len) :
    (secondaryWords c len words).getD i.val 0 =
      if validRecord words len = true then words.getD i.val 0 else c.dflt.get i := by
  rw [secondaryWords, apply_ite (List.getD · i.val 0), getD_defaults c h62 hi]

/-- At any other OPI it reads the secondary copy and accepts that or the default (rules R175, R176). -/
theorem recordReadStep_secondary (hdevs : (s.taskCfg k).devs = [d]) (hopi : (s.ctxAt k).opi ≠ 0)
    (ht : transact (copyFrame s.cfg (s.taskCfg k) d true) s = t) (hrx : t.port.rx = .data bytes)
    (hctx : t.ctx = v.set k.val c) {val : Vector Word 62}
    (hval : (c.withVal (s.taskCfg k).len (secondaryWords c (s.taskCfg k).len (recordOf bytes))).val = val) :
    recordReadStep k s =
      if validRecord (recordOf bytes) (s.taskCfg k).len = true then
        finish k .ok { t with ctx := v.set k.val { c with val := val, src := .secondary } }
      else
        finish k .defaulted { t with
          sflt := t.sflt ||| requestWord k
          ctx := v.set k.val { c with val := val, src := .default } } := by
  rw [recordReadStep_eq hdevs (bne_iff_ne.mpr hopi) ht hrx, acceptRecord_of_ctx hctx, defaultRead_of_ctx hctx, ← hval,
    secondaryWords]
  by_cases hvalid : validRecord (recordOf bytes) (s.taskCfg k).len = true
  · simp only [if_pos hvalid, if_true]
  · simp only [if_neg hvalid, if_true]

end steps

/-- Settles O43: the begin check passes, and the step reads the primary copy. -/
theorem recordReadPrimary : Obligations.RecordReadPrimary := by
  unfold Obligations.RecordReadPrimary
  rintro k d s frame start _ c hcls hdevs rfl h1 hmax h62 hidle hlayout hsize hc
  obtain ⟨rfl, rfl⟩ := copyRead_eq (c := s.taskCfg k) (second := false) hlayout hsize
  have hstart : (classRule k .rrRead).start (beginTask k s) = { s with ctx := s.ctx.set k.val c } := by
    rw [start_beginTask k s (by decide), if_pos rfl, hc]
  have hopi : (({ s with ctx := s.ctx.set k.val c } : State).ctxAt k).opi = 0 := by rw [ctxAt_withCtx, hc]; rfl
  obtain ⟨bytes, free, hread, hlen, hcopy⟩ :=
    transact_copyFrame { s with ctx := s.ctx.set k.val c } (c := s.taskCfg k) d false h62
  refine ⟨bytes, recordOf bytes, validRecord (recordOf bytes) (s.taskCfg k).len,
    (c.withVal (s.taskCfg k).len (recordOf bytes)).val, free, _, hlen, hcopy, recordOf_eq_map_wordAt _ bytes hlen,
    validRecord_iff _ _, fun i => ?_, rfl, ?_⟩
  · rw [withVal_val_get, hc]
    rfl
  · have hstep := recordReadStep_primary (s := { s with ctx := s.ctx.set k.val c }) hdevs hopi hread rfl rfl
    rw [exec_begins hcls hidle hstart ((recordReadRule_valid k _).mpr ⟨⟨d, hdevs⟩, h1, hmax⟩)]
    exact congrArg _ hstep

/-- Settles O44: the step at OPI = 1 reads the secondary copy. -/
theorem recordReadSecondaryOrDefault : Obligations.RecordReadSecondaryOrDefault := by
  unfold Obligations.RecordReadSecondaryOrDefault
  rintro k d s frame start _ hcls hdevs rfl h1 h62 hphase hfs hopi hlayout hsize
  obtain ⟨rfl, rfl⟩ := copyRead_eq (c := s.taskCfg k) (second := true) hlayout hsize
  have hsecond : (s.ctxAt k).opi ≠ 0 := by rw [hopi]; decide
  have hctx : s.ctx = s.ctx.set k.val (s.ctxAt k) := (Vector.set_getElem_self _).symm
  obtain ⟨bytes, free, hread, hlen, hcopy⟩ := transact_copyFrame s (c := s.taskCfg k) d true h62
  refine ⟨bytes, recordOf bytes, validRecord (recordOf bytes) (s.taskCfg k).len,
    ((s.ctxAt k).withVal (s.taskCfg k).len (secondaryWords (s.ctxAt k) (s.taskCfg k).len (recordOf bytes))).val, free, _,
    hlen, hcopy, recordOf_eq_map_wordAt _ bytes hlen, validRecord_iff _ _, fun i => ?_, rfl, ?_⟩
  · rw [withVal_val_get]
    exact if_ctx_congr Iff.rfl (fun hi => getD_secondaryWords _ _ h62 hi) fun _ => rfl
  · rw [exec_boundary hcls hphase hfs]
    exact congrArg _ (recordReadStep_secondary hdevs hsecond hread rfl hctx rfl)

end Sys2Proof.Machine

namespace Sys2Proof.Machine

/-! ### The completion of a capture's operation (rules R193, R195-R197, R217) -/

/-- The context of a capture whose operation has completed: the erase at OPI = 0, else the page (rules R195, R196). -/
def Ctx.committed (c : Ctx) : Ctx := if c.opi = 0 then { c with needErase := false } else commitPage c

theorem captureCommit_of_ctx {k : Task} {t : State} {v : Vector Ctx 32} {c : Ctx} (h : t.ctx = v.set k.val c) :
    (captureCommit k t).1 = { t with ctx := v.set k.val c.committed } :=
  modCtx_of_ctx h Ctx.committed

theorem ctxAt_captureCommit (k : Task) (s : State) : ((captureCommit k s).1.ctxAt k) = (s.ctxAt k).committed :=
  ctxAt_modCtx_self s k Ctx.committed

/-- What follows a capture's commit: abort, then completion, then withdrawal, else it goes on (rules R193, R197, R217). -/
theorem opComplete_capture {k : Task} {s u : State} (hu : (captureCommit k s).1 = u) :
    opComplete k (captureRule k) s =
      if (u.ctxAt k).abort = true then retire k u
      else if (u.ctxAt k).count.toNat = Config.capLen then finish k .ok u
      else if bitAt u.req k = true then u
      else withdraw k u := by
  have hcommit : (captureRule k).commit s =
      (u, if (u.ctxAt k).count.toNat = Config.capLen then some .ok else none) := by rw [← hu]; rfl
  have hcaptures : (captureRule k).captures = true := rfl
  simp only [opComplete, hcommit, hcaptures, Bool.true_and]
  by_cases hfull : (u.ctxAt k).count.toNat = Config.capLen
  · rw [if_pos hfull, if_pos hfull]
  · rw [if_neg hfull, if_neg hfull]

/-- The first page of a sector, as its number modulo the 16 pages of one (rule R96). -/
theorem pageField_eq_zero (p : Packed) : (pageField p == 0) = (p.toNat % 16 == 0) := by
  have hnat : (pageField p).toNat = p.toNat % 16 := by simp [pageField]
  rw [Bool.eq_iff_iff, beq_iff_eq, beq_iff_eq, ← hnat]
  exact BitVec.toNat_eq

/-- Settles O49: the poll of an idle Flash, the commit of the class, and what follows it. -/
theorem captureCommits : Obligations.CaptureCommits := by
  unfold Obligations.CaptureCommits
  rintro k s u c c' rfl hcls hphase hfs hb hc' hu
  have hcommitted : ({ s.ctxAt k with polls := 0, fs := .boundary } : Ctx).committed = c' := by
    rw [hc', ← pageField_eq_zero]
    rfl
  have habort : c'.abort = (s.ctxAt k).abort := by
    rw [hc']
    split <;> rfl
  have hctx : u.ctxAt k = c' := by
    rw [hu]
    exact ctxAt_of_ctx rfl
  have hreq : u.req = s.req := by rw [hu]; rfl
  have hcommit := captureCommit_of_ctx (t := { s.afterPoll with
    lockV := false, ctx := s.ctx.set k.val { s.ctxAt k with polls := 0, fs := .boundary } }) rfl
  rw [hcommitted] at hcommit
  rw [exec_poll_idle hcls hphase hfs hb, classRule, opComplete_capture (hcommit.trans hu.symm), hctx, habort, hreq]
  rfl

/-! ### The lengths of one capture (rules R194, R196-R198) -/

/-- COUNT is a whole number of pages of seven sample-sets, or the whole capture: what a capture leaves when it stops. -/
def Ctx.LengthOk (c : Ctx) : Prop :=
  (c.count.toNat % 7 = 0 ∨ c.count.toNat = Config.capLen) ∧ c.count.toNat ≤ Config.capLen

/-- A capture whose operation completes: more is to come, and a page in flight has the size of the next one. -/
structure Ctx.Completing (c : Ctx) : Prop where
  whole : c.count.toNat % 7 = 0
  below : c.count.toNat < Config.capLen
  page  : c.opi ≠ 0 → c.pend.toNat = setsInPage c.count

/-- What the lengths of a capture depend on besides FS: PHASE, OPI, COUNT and PEND. -/
def Ctx.progress (c : Ctx) : Phase × BitVec 4 × BitVec 12 × BitVec 3 := (c.phase, c.opi, c.count, c.pend)

section context
variable {c d : Ctx}

theorem Ctx.captureOk.length (h : c.captureOk) : c.LengthOk := by
  obtain ⟨hpages, hmax, -⟩ := h
  exact ⟨hpages, hmax⟩

theorem Ctx.captureOk.completing (h : c.captureOk) (hphase : c.phase = .run) (hfs : c.fs ≠ .boundary) :
    c.Completing := by
  obtain ⟨hpages, -, hbelow, hpend⟩ := h
  have hlt := hbelow hphase
  exact ⟨hpages.resolve_right (Nat.ne_of_lt hlt), hlt, hpend hphase hfs⟩

theorem Ctx.Completing.lengthOk (h : c.Completing) : c.LengthOk := ⟨.inl h.whole, Nat.le_of_lt h.below⟩

theorem captureOk_of_stopped (h : c.LengthOk) (hphase : c.phase ≠ .run) : c.captureOk :=
  ⟨h.1, h.2, fun hrun => absurd hrun hphase, fun hrun => absurd hrun hphase⟩

theorem captureOk_of_boundary (h : c.LengthOk) (hbelow : c.count.toNat < Config.capLen) (hfs : c.fs = .boundary) :
    c.captureOk :=
  ⟨h.1, h.2, fun _ => hbelow, fun _ hinside => absurd hfs hinside⟩

/-- A context that has not moved in its capture, or only from inside an operation to its end. -/
theorem Ctx.captureOk.of_progress (h : c.captureOk) (hp : d.progress = c.progress)
    (hfs : d.fs ≠ .boundary → c.fs ≠ .boundary) : d.captureOk := by
  simp only [Ctx.progress, Prod.mk.injEq] at hp
  obtain ⟨hphase, hopi, hcount, hpend⟩ := hp
  obtain ⟨hpages, hmax, hbelow, hpage⟩ := h
  rw [Ctx.captureOk, hphase, hopi, hcount, hpend]
  exact ⟨hpages, hmax, hbelow, fun hrun hinside => hpage hrun (hfs hinside)⟩

/-- The page of an op boundary fits PEND (rule R194). -/
theorem toNat_ofNat_setsInPage (count : BitVec 12) : (BitVec.ofNat 3 (setsInPage count)).toNat = setsInPage count := by
  have h : setsInPage count ≤ 7 := Nat.min_le_left _ _
  exact Nat.mod_eq_of_lt (by omega)

/-- A page in flight makes COUNT the next multiple of seven or the whole capture (rules R194, R196). -/
theorem toNat_count_commitPage (h : c.Completing) (hopi : c.opi ≠ 0) :
    (commitPage c).count.toNat = c.count.toNat + min 7 (Config.capLen - c.count.toNat) := by
  have hpend : c.pend.toNat = min 7 (Config.capLen - c.count.toNat) := h.page hopi
  have hbelow : c.count.toNat < 2880 := h.below
  have hcap : Config.capLen = 2880 := rfl
  show (c.count + c.pend.setWidth 12).toNat = _
  rw [BitVec.toNat_add, BitVec.toNat_setWidth]
  omega

theorem Ctx.Completing.committed (h : c.Completing) : c.committed.LengthOk := by
  rw [Ctx.committed]
  split
  · exact h.lengthOk
  · rename_i hopi
    have hcount := toNat_count_commitPage h hopi
    have hwhole := h.whole
    have hbelow := h.below
    have hcap : Config.capLen = 2880 := rfl
    refine ⟨?_, ?_⟩ <;> omega

theorem fs_committed (c : Ctx) : c.committed.fs = c.fs := by
  rw [Ctx.committed]
  split <;> rfl

end context

/-! ### The slices of a capture -/

section slices
variable {k : Task}

/-- A capture that ends keeps its committed length (rules R196, R198, R214-R216). -/
theorem Ends.captureOk {s t : State} (h : Ends k s t) (hs : (s.ctxAt k).LengthOk) : (t.ctxAt k).captureOk := by
  rcases h with ⟨st, rfl⟩ | rfl | rfl
  · rw [ctxAt_finish, if_pos rfl]
    refine captureOk_of_stopped hs ?_
    dsimp only
    split_ifs <;> decide
  · rw [ctxAt_retire, if_pos rfl]
    refine captureOk_of_stopped ?_ (fun h => nomatch h)
    simp only [Ctx.LengthOk]
    split
    · decide
    · exact hs
  · rw [ctxAt_withdraw, if_pos rfl]
    exact captureOk_of_stopped hs (fun h => nomatch h)

theorem opComplete_captureOk (s : State) (hfs : (s.ctxAt k).fs = .boundary) (h : (s.ctxAt k).Completing) :
    ((opComplete k (captureRule k) s).ctxAt k).captureOk := by
  have hctx := ctxAt_captureCommit k s
  have hlength : ((captureCommit k s).1.ctxAt k).LengthOk := by rw [hctx]; exact h.committed
  rw [opComplete_capture rfl]
  split
  · exact Ends.captureOk (.inr (.inl rfl)) hlength
  · split
    · exact Ends.captureOk (.inl ⟨_, rfl⟩) hlength
    · rename_i hfull
      split
      · exact captureOk_of_boundary hlength (Nat.lt_of_le_of_ne hlength.2 hfull) (by rw [hctx, fs_committed, hfs])
      · exact Ends.captureOk (.inr (.inr rfl)) hlength

theorem endOp_captureOk (s : State) (h : (s.ctxAt k).Completing) :
    ((endOp k (captureRule k) s).ctxAt k).captureOk := by
  have hctx := ctxAt_withCtx { s with lockV := false } k { s.ctxAt k with fs := .boundary }
  rw [endOp_eq]
  refine opComplete_captureOk _ ?_ ?_ <;> rw [hctx]
  exact ⟨h.whole, h.below, h.page⟩

/-- A poll limit ends the capture at its committed length (rule R154). -/
theorem pollLimit_captureOk (s : State) (h : (s.ctxAt k).captureOk) : ((pollLimit k s).ctxAt k).captureOk := by
  rw [pollLimit]
  split
  · refine Ends.captureOk (.inl ⟨_, rfl⟩) ?_
    rw [ctxAt_modCtx_self]
    exact h.length
  · exact h

theorem pollStep_captureOk (s : State) (h : (s.ctxAt k).captureOk) (hphase : (s.ctxAt k).phase = .run)
    (hfs : (s.ctxAt k).fs ≠ .boundary) : ((pollStep k (captureRule k) s).ctxAt k).captureOk := by
  simp only [pollStep]
  split
  · refine pollLimit_captureOk _ ?_
    rw [ctxAt_modCtx_self, transact_ctxAt]
    exact h.of_progress rfl id
  · refine endOp_captureOk _ ?_
    rw [ctxAt_modCtx_self, transact_ctxAt]
    obtain ⟨hwhole, hbelow, hpage⟩ := h.completing hphase hfs
    exact ⟨hwhole, hbelow, hpage⟩

/-- A command on the wire moves the task within its operation. -/
theorem issued_captureOk (i : Instr) (s : State) (h : (s.ctxAt k).captureOk) (hfs : (s.ctxAt k).fs ≠ .boundary) :
    (((transact i s).setFs k .issued).ctxAt k).captureOk := by
  rw [State.setFs, ctxAt_modCtx_self, transact_ctxAt]
  exact h.of_progress rfl fun _ => hfs

theorem commandStep_captureOk (s : State) (h : (s.ctxAt k).captureOk) (hphase : (s.ctxAt k).phase = .run)
    (hfs : (s.ctxAt k).fs ≠ .boundary) : ((commandStep k (captureRule k) s).ctxAt k).captureOk := by
  have data (n : Nat) : ((captureRule k).data n s).1.ctxAt k = s.ctxAt k := ctxAt_congr (pageData_ctx k n s) k
  have ended (i : Instr) (u : State) (hu : u.ctxAt k = s.ctxAt k) :
      ((endOp k (captureRule k) (transact i u)).ctxAt k).captureOk :=
    endOp_captureOk _ (by rw [transact_ctxAt, hu]; exact h.completing hphase hfs)
  cases hop : (s.ctxAt k).op with
  | prog p n =>
    rw [commandStep_prog k _ s p n hop]
    exact issued_captureOk _ _ (by rw [data]; exact h) (by rw [data]; exact hfs)
  | se p => rw [commandStep_se k _ s p hop]; exact issued_captureOk _ s h hfs
  | be p => rw [commandStep_be k _ s p hop]; exact issued_captureOk _ s h hfs
  | protect => rw [commandStep_protect k _ s hop]; exact ended _ s rfl
  | unlock => rw [commandStep_unlock k _ s hop]; exact ended _ s rfl
  | fram d a n => rw [commandStep_fram k _ s d a n hop]; exact ended _ _ (data n)
  | none => rw [commandStep_none k _ s hop]; exact endOp_captureOk s (h.completing hphase hfs)

/-- The op boundary retires the capture, erases with no page in flight, or fixes PEND for the page (rules R193, R194). -/
theorem captureBoundary_captureOk (s : State) (h : (s.ctxAt k).captureOk) :
    ((captureBoundary k s).ctxAt k).captureOk := by
  rw [captureBoundary_eq]
  split
  · exact Ends.captureOk (.inr (.inl rfl)) h.length
  · rw [ctxAt_of_ctx rfl]
    obtain ⟨hpages, hmax, hbelow, -⟩ := h
    split
    · exact ⟨hpages, hmax, hbelow, fun _ _ hpage => absurd rfl hpage⟩
    · exact ⟨hpages, hmax, hbelow, fun _ _ _ => toNat_ofNat_setsInPage _⟩

theorem runTask_captureOk (s : State) (h : (s.ctxAt k).captureOk) (hphase : (s.ctxAt k).phase = .run) :
    ((runTask k (captureRule k) s).ctxAt k).captureOk := by
  rw [runTask, continueOp]
  split
  · exact captureBoundary_captureOk s h
  · rename_i hfs
    split
    · exact commandStep_captureOk s h hphase hfs
    · exact pollStep_captureOk s h hphase hfs

/-- A capture begins with COUNT = 0, at its op boundary (rule R191). -/
theorem captureStart_captureOk (s : State) : ((captureStart k (beginTask k s)).ctxAt k).captureOk ∧
    ((captureStart k (beginTask k s)).ctxAt k).phase = .run := by
  rw [captureStart_beginTask, ctxAt_withCtx]
  exact ⟨captureOk_of_boundary ⟨.inl rfl, Nat.zero_le _⟩ (by decide : 0 < Config.capLen) rfl, rfl⟩

theorem slice_captureOk (s : State) (h : (s.ctxAt k).captureOk) :
    ((slice k (captureRule k) s).ctxAt k).captureOk := by
  cases hphase : (s.ctxAt k).phase with
  | finish =>
    rw [slice_finish k _ s hphase, finishAck, ctxAt_setAck, ctxAt_modCtx_self]
    exact captureOk_of_stopped h.length (fun h => nomatch h)
  | run => rw [slice_run k _ s hphase]; exact runTask_captureOk s h hphase
  | idle =>
    obtain ⟨hstart, hrun⟩ := captureStart_captureOk (k := k) s
    have hvalid : (captureRule k).valid ((captureRule k).start (beginTask k s)) = true := rfl
    rw [slice_idle k _ s hphase, if_pos hvalid]
    exact runTask_captureOk _ hstart hrun

end slices

/-! ### Every capture, from step to step -/

theorem capturesOk_of_ctxAt {s t : State} (hcfg : t.cfg = s.cfg)
    (hctx : ∀ j, (s.ctxAt j).captureOk → (t.ctxAt j).captureOk) (hs : s.CapturesOk) : t.CapturesOk := by
  intro j hcls
  rw [State.taskCfg, hcfg] at hcls
  exact hctx j (hs j hcls)

theorem capturesOk_congr {s t : State} (hcfg : t.cfg = s.cfg) (hctx : t.ctx = s.ctx) (hs : s.CapturesOk) :
    t.CapturesOk :=
  capturesOk_of_ctxAt hcfg (fun j h => by rwa [ctxAt_congr hctx]) hs

theorem capturesOk_supersedeTask (lo : Task) (s : State) (hs : s.CapturesOk) : (supersedeTask lo s).CapturesOk := by
  refine capturesOk_of_ctxAt (taskOnly_supersedeTask lo s).cfg (fun j h => ?_) hs
  have aborted : (((s.modCtx lo fun c => { c with abort := true }).setReq (clearBit s.req lo)).ctxAt j).captureOk := by
    rw [ctxAt_setReq, ctxAt_modCtx]
    split
    · rename_i hj
      exact (hj ▸ h).of_progress rfl id
    · exact h
  simp only [supersedeTask]
  split
  · exact aborted
  · by_cases hj : j = lo
    · subst hj
      exact Ends.captureOk (.inr (.inl rfl)) aborted.length
    · rwa [ctxAt_retire, if_neg hj]

theorem capturesOk_withdrawAll (s : State) (hs : s.CapturesOk) : (withdrawAll s).CapturesOk := by
  refine capturesOk_of_ctxAt (taskOnly_withdrawAll s).cfg (fun j h => ?_) hs
  rw [ctxAt_withdrawAll]
  split
  · exact captureOk_of_stopped h.length (fun h => nomatch h)
  · exact h

/-- Steps 1-4 of a tick retire and withdraw captures at their committed length (rules R212, R215, R216). -/
theorem capturesOk_arbitrate (s : State) (hs : s.CapturesOk) : (arbitrate s).CapturesOk := by
  have hrelease : (release (s.setPort { s.port with rx := .none, sent := [] })).CapturesOk :=
    capturesOk_congr rfl rfl hs
  exact capturesOk_withdrawAll _ (List.foldlRecOn (motive := State.CapturesOk) _ _ hrelease
    fun t ht lo _ => capturesOk_supersedeTask lo t ht)

/-- A slice changes the context of its own task alone, a capture's as its class says. -/
theorem capturesOk_serve (k : Task) (s : State) (hs : s.CapturesOk) : (slice k (taskRule k s) s).CapturesOk := by
  intro j hcls
  have hsends := serve_sends k s
  rw [State.taskCfg, hsends.cfg] at hcls
  by_cases hj : j = k
  · subst hj
    have hrule : taskRule j s = captureRule j := by rw [taskRule, State.taskCfg, hcls, classRule]
    rw [hrule]
    exact slice_captureOk s (hs j hcls)
  · rw [hsends.others j hj]
    exact hs j hcls

theorem capturesOk_tick {s t : State} (h : tick s = .next t) (hs : s.CapturesOk) : t.CapturesOk := by
  obtain ⟨u, hu, rfl⟩ := tick_next h
  have hu' : u.CapturesOk := by
    cases hu with
    | idle => exact capturesOk_arbitrate s hs
    | serves k hk => exact capturesOk_serve k _ (capturesOk_arbitrate s hs)
  rw [endTick_eq]
  exact capturesOk_congr rfl rfl hu'

/-- No host write reaches COUNT, PEND or a position field (rule R22). -/
theorem capturesOk_writeReg (s : State) (v : Word) (r : Reg) (hs : s.CapturesOk) : (writeReg s v r).CapturesOk := by
  cases r with
  | ctx k r =>
    refine capturesOk_of_ctxAt (writeReg_cfg s v _) (fun j h => ?_) hs
    rw [writeReg, ctxAt_modCtx]
    split
    · rename_i hj
      subst hj
      cases r <;> exact h.of_progress rfl id
    · exact h
  | _ => exact capturesOk_congr rfl rfl hs

theorem capturesOk_powerBack (s : State) : (powerBack s).CapturesOk := by
  intro k _
  have hreset : (powerBack s).ctxAt k = Ctx.reset := by
    simp [powerBack, State.powerUp, State.setEnv, State.ctxAt, Vector.get_eq_getElem]
  rw [hreset]
  exact captureOk_of_stopped ⟨.inl rfl, by decide⟩ (fun h => nomatch h)

theorem StepTo.capturesOk {s t : State} (h : StepTo s t) (hs : s.CapturesOk) : t.CapturesOk := by
  have env (e : Env) : (s.setEnv e).CapturesOk := capturesOk_congr rfl rfl hs
  cases h with
  | device p i hi =>
    have same := engineSame_deviceEffect i (s.setPort p)
    exact capturesOk_congr same.cfg same.ctx hs
  | unknown p n =>
    have same := engineSame_malformed n (s.setPort p)
    exact capturesOk_congr same.cfg same.ctx hs
  | ticks e h => exact capturesOk_tick h (env e)
  | writes e v r => exact capturesOk_writeReg _ v r (env e)
  | reads e => exact env e
  | pushes e v => exact capturesOk_congr rfl rfl hs
  | completes e =>
    rcases flashDone_cases (s.setEnv e) with h | ⟨op, -, h⟩ <;> rw [h]
    · exact env e
    · exact capturesOk_congr rfl rfl hs
  | powerFails e fs => exact capturesOk_powerBack _

/-- Settles O53: every kind of step keeps the lengths of every capture. -/
theorem captureLengthsKept : Obligations.CaptureLengthsKept := by
  unfold Obligations.CaptureLengthsKept
  intro s t hs h
  exact (step_to h).capturesOk hs

end Sys2Proof.Machine

namespace Sys2Proof.Machine

/-! ### The ends of a task and its first slice as record updates (rules R214-R216, R220, R221) -/

/-- Settles O25: the three ends of a task, said as one record update. -/
theorem finishRule : Obligations.FinishRule := by
  unfold Obligations.FinishRule
  exact finish_eq

/-- Settles O26: neither reads more than its own task's context and REQ. -/
theorem retireAndWithdrawRules : Obligations.RetireAndWithdrawRules := by
  unfold Obligations.RetireAndWithdrawRules
  exact fun k s => ⟨retire_eq k s, withdraw_eq k s⟩

/-- Settles O27: PHASE = FINISH decides the slice, whatever the class. -/
theorem finishedTaskIsAcknowledged : Obligations.FinishedTaskIsAcknowledged := by
  unfold Obligations.FinishedTaskIsAcknowledged
  intro k s hfinish
  rw [exec_request, slice_finish k _ s hfinish]
  rfl

/-- Settles O31: the begin check of the class NONE fails, and the scan choice finishes at once. -/
theorem unassignedBitEndsInvalid : Obligations.UnassignedBitEndsInvalid := by
  unfold Obligations.UnassignedBitEndsInvalid
  intro k s hcls hidle hscan
  have hscan' : (beginTask k s).scan = some k := hscan
  have hrefused : exec (requestInstrs.get k) s = .next (finish k .invalidParam (beginTask k s)) :=
    exec_refused hcls hidle rfl Bool.false_ne_true
  rw [hrefused, finish_eq, if_pos hscan', if_pos hscan', ctxAt_beginTask, beginTask_eq, Vector.set_set]
  rfl

/-! ### Release and withdrawal (rules R211, R216) -/

theorem isWithdrawn_iff (s : State) (k : Task) : isWithdrawn s k = true ↔
    bitAt s.req k = false ∧ (s.ctxAt k).phase ≠ .idle ∧ ¬(s.lockV = true ∧ s.lockK = k) := by
  simp only [isWithdrawn, State.holdsLock, Bool.and_eq_true, Bool.not_eq_true', bne_iff_ne, and_assoc,
    ← Bool.not_eq_true (_ && _), beq_iff_eq]

/-- Settles O21: each step by its effect on one task. -/
theorem releaseAndWithdrawAll : Obligations.ReleaseAndWithdrawAll := by
  unfold Obligations.ReleaseAndWithdrawAll
  refine fun s => ⟨⟨_, rfl, bitAt_release s⟩, ⟨_, rfl, fun k => ?_⟩⟩
  have hk := ctxAt_withdrawAll s k
  simp only [isWithdrawn_iff] at hk
  exact hk

/-! ### What a tick serves (rules R210, R213) -/

theorem tick_of_locked {s : State} (h : (arbitrate s).lockV = true) :
    tick s = afterTick (exec (requestInstrs.get (arbitrate s).lockK) (arbitrate s)) :=
  tick_of_decode (selectedWord_locked _ _ h)

theorem tick_of_scan {s : State} {k : Task} (h : (arbitrate s).lockV = false) (hk : (arbitrate s).scan = some k) :
    tick s = afterTick (exec (requestInstrs.get k) (arbitrate s)) :=
  tick_of_decode (by rw [selectedWord_scan _ _ h, hk])

theorem tick_of_quiet {s : State} (h : (arbitrate s).lockV = false) (hnone : ∀ k, isPending (arbitrate s) k = false) :
    tick s = .next (endTick (arbitrate s)) := by
  have hsel : (arbitrate s).sel = none := by
    rw [State.sel, h]
    exact (scan_none _).mpr hnone
  rw [tick_eq, hsel]

/-- Settles O5: LOCK first, then the scan choice, else no slice. -/
theorem tickServesLockHolderElseScan : Obligations.TickServesLockHolderElseScan := by
  unfold Obligations.TickServesLockHolderElseScan
  intro s
  exact ⟨tick_of_locked, fun k hfree hk hmin => tick_of_scan hfree ((scan_some _ k).mpr ⟨hk, hmin⟩), tick_of_quiet⟩

/-! ### What steps 1-4 leave of one task (rules R211, R212, R216) -/

/-- The state that the supersede of a tick starts from. -/
def State.released (s : State) : State := release (s.setPort { s.port with rx := .none, sent := [] })

theorem bitAt_ack_released (s : State) (k : Task) : bitAt s.released.ack k = (bitAt s.ack k && bitAt s.req k) :=
  bitAt_release (s.setPort { s.port with rx := .none, sent := [] }) k

theorem arbitrate_eq (s : State) : arbitrate s = withdrawAll (supersede s.released) := rfl

theorem withdrawAll_req (s : State) : (withdrawAll s).req = s.req := by simp only [withdrawAll]

theorem withdrawAll_ack (s : State) : (withdrawAll s).ack = s.ack := by simp only [withdrawAll]

theorem supersede_ack (s : State) : (supersede s).ack = s.ack :=
  (foldl_supersedeTask _ s (nodup_supersededTasks s) (supersede s) rfl).1

theorem bitAt_req_supersede (s : State) (k : Task) :
    bitAt (supersede s).req k = (bitAt s.req k && !decide (k ∈ supersededTasks s)) :=
  ((foldl_supersedeTask _ s (nodup_supersededTasks s) (supersede s) rfl).2 k).1

theorem bitAt_ack_arbitrate (s : State) (k : Task) :
    bitAt (arbitrate s).ack k = (bitAt s.ack k && bitAt s.req k) := by
  rw [arbitrate_eq, withdrawAll_ack, supersede_ack, bitAt_ack_released]

theorem bitAt_req_arbitrate (s : State) (k : Task) :
    bitAt (arbitrate s).req k = (bitAt s.req k && !decide (k ∈ supersededTasks s.released)) := by
  rw [arbitrate_eq, withdrawAll_req, bitAt_req_supersede]
  rfl

/-- REQ bits fall, and those of captures alone (rule R212). -/
theorem req_of_arbitrate {s : State} {k : Task} (h : bitAt (arbitrate s).req k = true) : bitAt s.req k = true := by
  rw [bitAt_req_arbitrate, Bool.and_eq_true] at h
  exact h.1

theorem capture_of_cleared {s : State} {k : Task} (h : bitAt s.req k = true) (h' : bitAt (arbitrate s).req k = false) :
    (s.taskCfg k).cls = .capture := by
  rw [bitAt_req_arbitrate, h, Bool.true_and, Bool.not_eq_false', decide_eq_true_iff] at h'
  exact ((mem_supersededTasks s.released k).mp h').1

/-- A capture loses its request only while it is not acknowledged (rule R212). -/
theorem req_of_ack_arbitrate {s : State} {k : Task} (h : bitAt (arbitrate s).ack k = true) :
    bitAt (arbitrate s).req k = true := by
  rw [bitAt_ack_arbitrate, Bool.and_eq_true] at h
  obtain ⟨hack, hreq⟩ := h
  have hnot : k ∉ supersededTasks s.released := fun hmem => by
    obtain ⟨-, -, -, -, -, -, -, -, hfree, -⟩ := (mem_supersededTasks_iff _ k).mp hmem
    rw [bitAt_ack_released] at hfree
    simp [hack, hreq] at hfree
  rw [bitAt_req_arbitrate]
  simp [hreq, hnot]

/-- Steps 1-4 begin no task. -/
theorem idle_arbitrate {s : State} {k : Task} (h : (s.ctxAt k).phase = .idle) :
    ((arbitrate s).ctxAt k).phase = .idle := by
  rcases (holderStands_arbitrate s).moved k with hpos | ⟨-, hidle, -⟩
  · simp only [Ctx.position, Prod.mk.injEq] at hpos
    exact hpos.1.trans h
  · exact hidle

/-- With LOCK free, the withdrawal leaves no task begun whose request is clear (rule R216). -/
theorem req_or_idle_withdrawAll {s : State} (h : s.lockV = false) (k : Task) :
    bitAt (withdrawAll s).req k = true ∨ ((withdrawAll s).ctxAt k).phase = .idle := by
  rw [withdrawAll_req, ctxAt_withdrawAll]
  split
  · exact .inr rfl
  · rename_i hstays
    simp only [isWithdrawn_iff, h] at hstays
    by_cases hr : bitAt s.req k = true
    · exact .inl hr
    · exact .inr (by simpa [hr] using hstays)

/-! ### An idle tick (rule R227) -/

/-- Where no request is pending, none is superseded (rule R212). -/
theorem supersede_of_none_pending {s : State} (h : ∀ k, isPending s k = false) : supersede s = s := by
  have hnone : supersededTasks s = [] := by
    refine List.eq_nil_iff_forall_not_mem.mpr fun lo hlo => ?_
    obtain ⟨-, -, -, -, -, -, -, hreq, hack, -⟩ := (mem_supersededTasks_iff s lo).mp hlo
    have hlo := h lo
    simp [isPending, hreq, hack] at hlo
  rw [supersede, hnone, List.foldl_nil]

theorem release_quiet {s : State} (h : ∀ k, bitAt s.ack k = true → bitAt s.req k = true) : release s = s := by
  have hack : releasedAck s.req s.ack = s.ack := word_ext fun k => by
    rw [bitAt_releasedAck]
    cases hk : bitAt s.ack k
    · rfl
    · rw [h k hk]; rfl
  rw [release, hack]
  rfl

theorem setPort_self (s : State) : s.setPort s.port = s := rfl

/-- With LOCK free and no request pending, steps 1-4 have nothing more to do. -/
theorem arbitrate_arbitrate {s : State} (hfree : s.lockV = false)
    (hnone : ∀ k, isPending (arbitrate s) k = false) : arbitrate (arbitrate s) = arbitrate s := by
  have hport : { (arbitrate s).port with rx := .none, sent := [] } = (arbitrate s).port := by rw [arbitrate_port]
  have hrelease : (arbitrate s).released = arbitrate s := by
    rw [State.released, hport, setPort_self, release_quiet fun k => req_of_ack_arbitrate]
  have hbegun : ∀ k, bitAt (arbitrate s).req k = true ∨ ((arbitrate s).ctxAt k).phase = .idle :=
    req_or_idle_withdrawAll ((taskOnly_supersede s.released).lockV.trans hfree)
  rw [arbitrate_eq (arbitrate s), hrelease, supersede_of_none_pending hnone, withdrawAll_quiet hbegun]

/-- The end of a tick that received nothing and in which no push is left to fall. -/
theorem endTick_quiet {s : State} (hrx : s.port.rx = .none) (hbetween : s.env.between = []) : endTick s = s := by
  have hport : { s.port with rx := .none } = s.port := by rw [← hrx]
  have henv : { s.env with between := [] } = s.env := by rw [← hbetween]
  rw [endTick_eq, hport, henv, hbetween]
  rfl

/-- A step whose tick finds nothing to serve. -/
theorem step_idle {s : State} (hbus : s.port.bus = none) (hinputs : s.env.inputs = []) (hbetween : s.env.between = [])
    (hfree : s.lockV = false) (hnone : ∀ k, isPending (arbitrate s) k = false) : step s = .next (arbitrate s) := by
  have hstep : step s = tick s := by simp only [step, hbus, hinputs]
  rw [hstep, tick_of_quiet ((arbitrate_lockV s).trans hfree) hnone,
    endTick_quiet (by rw [arbitrate_port]) (by rw [arbitrate_env, hbetween])]

/-- Settles O7: the second tick's steps 1-4 find the state that the first one's left. -/
theorem idleTickSettles : Obligations.IdleTickSettles := by
  unfold Obligations.IdleTickSettles
  intro s hbus hinputs hbetween hfree hnone
  have hsame := arbitrate_arbitrate hfree hnone
  have hsecond : step (arbitrate s) = .next (arbitrate (arbitrate s)) :=
    step_idle (by rw [arbitrate_port, hbus]) (by rw [arbitrate_env, hinputs]) (by rw [arbitrate_env, hbetween])
      (by rw [arbitrate_lockV, hfree]) (by rw [hsame]; exact hnone)
  rw [hsame] at hsecond
  exact ⟨step_idle hbus hinputs hbetween hfree hnone, by rw [arbitrate_port], hsecond⟩

end Sys2Proof.Machine

namespace Sys2Proof.Machine

/-! ### REQ and ACK over a slice (rules R214-R217, R220, R226) -/

/-- REQ and ACK stand. -/
structure PairStands (s t : State) : Prop where
  req : t.req = s.req
  ack : t.ack = s.ack

theorem PairStands.trans {s t u : State} (h : PairStands s t) (h' : PairStands t u) : PairStands s u :=
  ⟨h'.req.trans h.req, h'.ack.trans h.ack⟩

theorem pairStands_modCtx (k : Task) (f : Ctx → Ctx) (s : State) : PairStands s (s.modCtx k f) := ⟨rfl, rfl⟩

theorem pairStands_setSflt (v : Word) (s : State) : PairStands s (s.setSflt v) := ⟨rfl, rfl⟩

theorem pairStands_dropLock (s : State) : PairStands s s.dropLock := ⟨rfl, rfl⟩

theorem pairStands_transact (i : Instr) (s : State) : PairStands s (transact i s) := ⟨transact_req i s, transact_ack i s⟩

/-- What task `k` of class `cls` may do to REQ and ACK: clear its request, as a capture; set its ACK bit, as the scan
choice. -/
structure Handshakes (cls : OpClass) (k : Task) (s t : State) : Prop where
  req : t.req = s.req ∨ cls = .capture ∧ t.req = clearBit s.req k
  ack : t.ack = s.ack ∨ s.scan = some k ∧ t.ack = setBit s.ack k

section handshake
variable {cls : OpClass} {k : Task} {s t u : State}

theorem PairStands.handshakes (h : PairStands s t) : Handshakes cls k s t := ⟨.inl h.req, .inl h.ack⟩

theorem PairStands.then (h : PairStands s t) (h' : Handshakes cls k t u) : Handshakes cls k s u := by
  obtain ⟨hreq, hack⟩ := h'
  rw [h.req] at hreq
  rw [h.ack, scan_congr h.req h.ack] at hack
  exact ⟨hreq, hack⟩

theorem handshakes_finish (st : Status) (s : State) : Handshakes cls k s (finish k st s) := by
  rw [finish_eq]
  refine ⟨.inl rfl, ?_⟩
  by_cases h : s.scan = some k
  · exact .inr ⟨h, if_pos h⟩
  · exact .inl (if_neg h)

theorem PairStands.finish (h : PairStands s t) (st : Status) : Handshakes cls k s (finish k st t) :=
  h.then (handshakes_finish st t)

theorem handshakes_retire (h : cls = .capture) (s : State) : Handshakes cls k s (retire k s) := ⟨.inr ⟨h, rfl⟩, .inl rfl⟩

theorem handshakes_finishAck (h : s.scan = some k) : Handshakes cls k s (finishAck k s) := ⟨.inl rfl, .inr ⟨h, rfl⟩⟩

theorem Handshakes.req_le (h : Handshakes cls k s t) {j : Task} (hj : bitAt t.req j = true) : bitAt s.req j = true := by
  rcases h.req with hr | ⟨-, hr⟩ <;> rw [hr] at hj
  · exact hj
  · rw [bitAt_clearBit, Bool.and_eq_true] at hj
    exact hj.1

theorem Handshakes.capture_of_cleared (h : Handshakes cls k s t) {j : Task} (hj : bitAt s.req j = true)
    (hj' : bitAt t.req j = false) : cls = .capture ∧ j = k := by
  rcases h.req with hr | ⟨hcls, hr⟩ <;> rw [hr] at hj'
  · simp [hj] at hj'
  · exact ⟨hcls, by simpa [hj] using hj'⟩

theorem Handshakes.ack_kept (h : Handshakes cls k s t) {j : Task} (hj : bitAt s.ack j = true) : bitAt t.ack j = true := by
  rcases h.ack with ha | ⟨-, ha⟩ <;> rw [ha]
  · exact hj
  · rw [bitAt_setBit, hj, Bool.true_or]

theorem Handshakes.ack_rises (h : Handshakes cls k s t) {j : Task} (hj : bitAt t.ack j = true) :
    bitAt s.ack j = true ∨ s.scan = some j := by
  rcases h.ack with ha | ⟨hscan, ha⟩ <;> rw [ha] at hj
  · exact .inl hj
  · rw [bitAt_setBit, Bool.or_eq_true, decide_eq_true_iff] at hj
    exact hj.imp_right fun hjk => by rw [hjk, hscan]

end handshake

/-! ### The classes -/

theorem pairStands_startFop (k : Task) (op : DeviceOp) (s : State) : PairStands s (startFop k op s) :=
  (pairStands_transact .flWren s).trans ⟨rfl, rfl⟩

theorem pairStands_startOp (k : Task) (op : DeviceOp) (s : State) : PairStands s (startOp k op s) := by
  cases op
  case none => exact ⟨rfl, rfl⟩
  case fram d a n => exact (pairStands_transact (.frWren d) s).trans ⟨rfl, rfl⟩
  all_goals exact pairStands_startFop k _ s

/-- What the slice of task `k` asks of the rule of its class for REQ and ACK: only an op boundary moves them, and only a
capture acts on ABORT. -/
structure ClassRule.Handshaking (k : Task) (cls : OpClass) (r : ClassRule) : Prop where
  start    : ∀ s, PairStands s (r.start s)
  boundary : ∀ s, Handshakes cls k s (r.boundary s)
  data     : ∀ n s, PairStands s (r.data n s).1
  commit   : ∀ s, PairStands s (r.commit s).1
  captures : r.captures = true → cls = .capture

theorem handshaking_singleOp (k : Task) (cls : OpClass) (valid : State → Bool) (op : State → DeviceOp) :
    (singleOp k valid op).Handshaking k cls where
  start    := fun _ => ⟨rfl, rfl⟩
  boundary := fun s => (pairStands_startOp k (op s) s).handshakes
  data     := fun _ _ => ⟨rfl, rfl⟩
  commit   := fun _ => ⟨rfl, rfl⟩
  captures := nofun

theorem handshaking_capture (k : Task) : (captureRule k).Handshaking k .capture where
  start    := fun _ => ⟨rfl, rfl⟩
  boundary := fun s => by
    change Handshakes .capture k s (captureBoundary k s)
    simp only [captureBoundary]
    split
    · exact handshakes_retire rfl s
    · have written (c : Ctx) : PairStands s (s.setCtx k c) := ⟨rfl, rfl⟩
      split <;> exact ((written _).trans (pairStands_startFop k _ _)).handshakes
  data     := fun n s => by
    change PairStands s (pageData k n s).1
    rw [pageData, samplesFrom_eq]
    exact ⟨rfl, rfl⟩
  commit   := fun _ => ⟨rfl, rfl⟩
  captures := fun _ => rfl

theorem handshaking_recordWrite (k : Task) : (recordWriteRule k).Handshaking k .rrWrite where
  start    := fun _ => ⟨rfl, rfl⟩
  boundary := fun s => (pairStands_startOp k (recordWriteOp k s) s).handshakes
  data     := fun _ _ => ⟨rfl, rfl⟩
  commit   := fun s => by
    simp only [recordWriteRule]
    split <;> exact ⟨rfl, rfl⟩
  captures := nofun

theorem handshakes_acceptRecord {cls : OpClass} (k : Task) (len : Nat) (words : List Word) (src : Src) (s : State) :
    Handshakes cls k s (acceptRecord k len words src s) :=
  (pairStands_modCtx k _ s).finish .ok

theorem handshakes_defaultRead {cls : OpClass} (k : Task) (len : Nat) (s : State) :
    Handshakes cls k s (defaultRead k len s) :=
  ((pairStands_modCtx k _ s).trans (pairStands_setSflt _ _)).finish .defaulted

theorem handshakes_recordReadStep {cls : OpClass} (k : Task) (s : State) : Handshakes cls k s (recordReadStep k s) := by
  simp only [recordReadStep]
  split
  · exact PairStands.handshakes ⟨rfl, rfl⟩
  · rename_i d _
    refine (pairStands_transact (copyFrame s.cfg (s.taskCfg k) d ((s.ctxAt k).opi != 0)) s).then ?_
    split
    · exact handshakes_acceptRecord k _ _ _ _
    · split
      · exact handshakes_defaultRead k _ _
      · exact (pairStands_modCtx k _ _).handshakes

theorem handshaking_recordRead (k : Task) : (recordReadRule k).Handshaking k .rrRead where
  start    := fun _ => ⟨rfl, rfl⟩
  boundary := handshakes_recordReadStep k
  data     := fun _ _ => ⟨rfl, rfl⟩
  commit   := fun _ => ⟨rfl, rfl⟩
  captures := nofun

theorem handshaking_calWrite (k : Task) : (calWriteRule k).Handshaking k .calWrite where
  start    := fun _ => ⟨rfl, rfl⟩
  boundary := fun s => by
    simp only [calWriteRule, calWriteBoundary]
    split
    · exact handshakes_finish .writeProtected s
    · exact (pairStands_startOp k _ s).handshakes
  data     := fun _ _ => ⟨rfl, rfl⟩
  commit   := fun s => by
    simp only [calWriteRule]
    split <;> exact ⟨rfl, rfl⟩
  captures := nofun

theorem handshaking_calUnlock (k : Task) : (calUnlockRule k).Handshaking k .calUnlock where
  start    := fun _ => ⟨rfl, rfl⟩
  boundary := fun s => (pairStands_startOp k .unlock s).handshakes
  data     := fun _ _ => ⟨rfl, rfl⟩
  commit   := fun _ => ⟨rfl, rfl⟩
  captures := nofun

theorem handshakes_readStep {cls : OpClass} (k : Task) (s : State) : Handshakes cls k s (readStep k s) := by
  simp only [readStep]
  split
  · exact PairStands.handshakes ⟨rfl, rfl⟩
  · exact ((pairStands_transact _ s).trans (pairStands_modCtx k _ _)).finish .ok

theorem handshaking_read (k : Task) : (readRule k).Handshaking k .read where
  start    := fun _ => ⟨rfl, rfl⟩
  boundary := handshakes_readStep k
  data     := fun _ _ => ⟨rfl, rfl⟩
  commit   := fun _ => ⟨rfl, rfl⟩
  captures := nofun

theorem handshaking_none (k : Task) : noneRule.Handshaking k .unassigned where
  start    := fun _ => ⟨rfl, rfl⟩
  boundary := fun _ => PairStands.handshakes ⟨rfl, rfl⟩
  data     := fun _ _ => ⟨rfl, rfl⟩
  commit   := fun _ => ⟨rfl, rfl⟩
  captures := nofun

theorem handshaking_classRule (k : Task) (cls : OpClass) : (classRule k cls).Handshaking k cls := by
  cases cls
  case capture => exact handshaking_capture k
  case rrWrite => exact handshaking_recordWrite k
  case rrRead => exact handshaking_recordRead k
  case calWrite => exact handshaking_calWrite k
  case calUnlock => exact handshaking_calUnlock k
  case read => exact handshaking_read k
  case unassigned => exact handshaking_none k
  all_goals exact handshaking_singleOp k _ _ _

/-! ### The slice -/

section slice
variable {k : Task} {cls : OpClass} {r : ClassRule}

theorem handshakes_opComplete (hr : r.Handshaking k cls) (s : State) : Handshakes cls k s (opComplete k r s) := by
  simp only [opComplete]
  refine (hr.commit s).then ?_
  split
  · rename_i habort
    rw [Bool.and_eq_true] at habort
    exact handshakes_retire (hr.captures habort.1) _
  · split
    · exact handshakes_finish _ _
    · split <;> exact PairStands.handshakes ⟨rfl, rfl⟩

theorem handshakes_endOp (hr : r.Handshaking k cls) (s : State) : Handshakes cls k s (endOp k r s) :=
  ((pairStands_dropLock s).trans (pairStands_modCtx k _ _)).then (handshakes_opComplete hr _)

theorem handshakes_pollLimit (s : State) : Handshakes cls k s (pollLimit k s) := by
  rw [pollLimit]
  split
  · exact ((pairStands_dropLock s).trans (pairStands_modCtx k _ _)).finish .timeout
  · exact PairStands.handshakes ⟨rfl, rfl⟩

theorem handshakes_pollStep (hr : r.Handshaking k cls) (s : State) : Handshakes cls k s (pollStep k r s) := by
  simp only [pollStep]
  refine (pairStands_transact .flRdsr s).then ?_
  split
  · exact (pairStands_modCtx k _ _).then (handshakes_pollLimit _)
  · exact (pairStands_modCtx k _ _).then (handshakes_endOp hr _)

theorem pairStands_issued (i : Instr) (s : State) : PairStands s ((transact i s).setFs k .issued) :=
  (pairStands_transact i s).trans (pairStands_modCtx k _ _)

theorem handshakes_commandStep (hr : r.Handshaking k cls) (s : State) : Handshakes cls k s (commandStep k r s) := by
  have ending (i : Instr) (s : State) : Handshakes cls k s (endOp k r (transact i s)) :=
    (pairStands_transact i s).then (handshakes_endOp hr _)
  cases h : (s.ctxAt k).op with
  | prog p n =>
    rw [commandStep_prog k r s p n h]
    exact ((hr.data n s).trans (pairStands_issued _ _)).handshakes
  | se p => rw [commandStep_se k r s p h]; exact (pairStands_issued _ s).handshakes
  | be p => rw [commandStep_be k r s p h]; exact (pairStands_issued _ s).handshakes
  | protect => rw [commandStep_protect k r s h]; exact ending _ s
  | unlock => rw [commandStep_unlock k r s h]; exact ending _ s
  | fram d a n => rw [commandStep_fram k r s d a n h]; exact (hr.data n s).then (ending _ _)
  | none => rw [commandStep_none k r s h]; exact handshakes_endOp hr s

theorem handshakes_runTask (hr : r.Handshaking k cls) (s : State) : Handshakes cls k s (runTask k r s) := by
  rw [runTask, continueOp]
  split
  · exact hr.boundary s
  · split
    · exact handshakes_commandStep hr s
    · exact handshakes_pollStep hr s

/-- A slice acknowledges its task as the scan choice alone, if a finished task is served as that. -/
theorem handshakes_slice (hr : r.Handshaking k cls) {s : State} (hfin : (s.ctxAt k).phase = .finish → s.scan = some k) :
    Handshakes cls k s (slice k r s) := by
  cases hp : (s.ctxAt k).phase with
  | finish => rw [slice_finish k r s hp]; exact handshakes_finishAck (hfin hp)
  | run => rw [slice_run k r s hp]; exact handshakes_runTask hr s
  | idle =>
    have hstart : PairStands s (r.start (beginTask k s)) := (pairStands_modCtx k _ s).trans (hr.start _)
    rw [slice_idle k r s hp]
    split
    · exact hstart.then (handshakes_runTask hr _)
    · exact hstart.finish .invalidParam

end slice

/-! ### The tick (rules R213, R223, R226) -/

/-- A served task that does not run is the scan choice: the LOCK holder runs (rule R213). -/
theorem scan_of_sel {s : State} {k : Task} (hl : s.LockOk) (hk : s.sel = some k) (hp : (s.ctxAt k).phase ≠ .run) :
    s.scan = some k := by
  rw [State.sel] at hk
  split at hk
  · rename_i hv
    cases hk
    exact absurd (hl.1 hv).1 hp
  · exact hk

theorem Ticked.handshakes {s u : State} (h : Ticked s u) (hl : s.LockOk) :
    ∃ k, Handshakes (s.taskCfg k).cls k (arbitrate s) u := by
  cases h with
  | idle => exact ⟨0, PairStands.handshakes ⟨rfl, rfl⟩⟩
  | serves k hk =>
    have hcls : (arbitrate s).taskCfg k = s.taskCfg k := by rw [State.taskCfg, arbitrate_cfg]; rfl
    refine ⟨k, ?_⟩
    rw [taskRule, hcls]
    exact handshakes_slice (handshaking_classRule k _) fun hfin =>
      scan_of_sel ((holderStands_arbitrate s).lockOk hl) hk (by rw [hfin]; nofun)

/-- A task that is idle after steps 1-4 stays idle, unless it is the scan choice (rule R213). -/
theorem Ticked.idle_of_not_scan {s u : State} (h : Ticked s u) (hl : s.LockOk) {j : Task}
    (hidle : ((arbitrate s).ctxAt j).phase = .idle) (hj : (arbitrate s).scan ≠ some j) : (u.ctxAt j).phase = .idle := by
  cases h with
  | idle => exact hidle
  | serves k hk =>
    have hjk : j ≠ k := by
      rintro rfl
      exact hj (scan_of_sel ((holderStands_arbitrate s).lockOk hl) hk (by rw [hidle]; nofun))
    rw [(serve_sends k _).others j hjk]
    exact hidle

theorem pending_of_scan {s : State} {k : Task} (h : s.scan = some k) : bitAt s.req k = true ∧ bitAt s.ack k = false := by
  have hpending := ((scan_some s k).mp h).1
  rwa [isPending, Bool.and_eq_true, Bool.not_eq_true'] at hpending

theorem endTick_req (s : State) : (endTick s).req = s.req := by rw [endTick_eq]

theorem endTick_ack (s : State) : (endTick s).ack = s.ack := by rw [endTick_eq]

theorem ctxAt_endTick (s : State) (k : Task) : (endTick s).ctxAt k = s.ctxAt k := by rw [endTick_eq]; rfl

/-- Settles O23: the slice sets the ACK bit of the scan choice alone, the release clears the bits of withdrawn requests, and
only captures lose their request. -/
theorem acknowledgeDiscipline : Obligations.AcknowledgeDiscipline := by
  unfold Obligations.AcknowledgeDiscipline
  intro s t hl ha h k
  obtain ⟨-, hackOk, -⟩ := positionsKept_tick h hl ha
  obtain ⟨u, hu, rfl⟩ := tick_next h
  obtain ⟨served, hs⟩ := hu.handshakes hl
  have asked (hack : bitAt u.ack k = true) : bitAt s.req k = true := by
    rcases hs.ack_rises hack with hold | hscan
    · rw [bitAt_ack_arbitrate, Bool.and_eq_true] at hold
      exact hold.2
    · exact req_of_arbitrate (pending_of_scan hscan).1
  have kept (hack : bitAt s.ack k = true) (hreq : bitAt s.req k = true) : bitAt u.ack k = true :=
    hs.ack_kept (by rw [bitAt_ack_arbitrate, hack, hreq]; rfl)
  have idle := hackOk k
  rw [endTick_ack, ctxAt_endTick] at idle
  rw [endTick_req, endTick_ack, ctxAt_endTick]
  refine ⟨fun _ => asked, fun hack => Bool.eq_iff_iff.mpr ⟨asked, kept hack⟩, idle, fun hack => ?_,
    fun hreq => req_of_arbitrate (hs.req_le hreq), fun hreq hclear => ?_⟩
  · by_cases hreq : bitAt s.req k = true
    · exact idle (kept hack hreq)
    · exact hu.idle_of_not_scan hl (idle_arbitrate (ha k hack)) fun hscan =>
        hreq (req_of_arbitrate (pending_of_scan hscan).1)
  · cases harb : bitAt (arbitrate s).req k with
    | false => exact capture_of_cleared hreq harb
    | true =>
      obtain ⟨hcls, rfl⟩ := hs.capture_of_cleared harb hclear
      exact hcls

/-- Settles O24: neither an acknowledge nor a begin is possible but for the scan choice, which is no task above `i`. -/
theorem priorityOrder : Obligations.PriorityOrder := by
  unfold Obligations.PriorityOrder
  intro s t i j hl h hij hpending
  obtain ⟨u, hu, rfl⟩ := tick_next h
  obtain ⟨served, hs⟩ := hu.handshakes hl
  have hscan : (arbitrate s).scan ≠ some j := fun hj => by
    have hnone := ((scan_some _ j).mp hj).2 i hij
    rw [hpending] at hnone
    cases hnone
  rw [endTick_ack, ctxAt_endTick]
  refine ⟨fun hack => Bool.eq_false_iff.mpr fun hset => ?_, fun hidle => hu.idle_of_not_scan hl (idle_arbitrate hidle) hscan⟩
  rcases hs.ack_rises hset with hold | hj
  · rw [bitAt_ack_arbitrate, hack] at hold
    cases hold
  · exact hscan hj

end Sys2Proof.Machine

namespace Sys2Proof.Machine

/-! ### Power-up (rules R270, R276) -/

/-- With every context at rest and LOCK free, no task holds a position. -/
theorem positions_of_atRest {s : State} (hv : s.lockV = false) (hrest : ∀ k, (s.ctxAt k).AtRest) :
    s.LockOk ∧ s.AckOk ∧ s.OpOk := by
  have outside (k : Task) (hk : (s.ctxAt k).fs ≠ .boundary) : False := hk (hrest k).2
  refine ⟨⟨fun hlock => ?_, fun k hk => (outside k hk).elim⟩, fun k _ => (hrest k).1, fun k hk => (outside k hk).elim⟩
  rw [hv] at hlock
  cases hlock

section powerUp
variable (p : Params) (fl f1 f2 : Memory)

@[simp] theorem ctxAt_powerUp (k : Task) : (State.powerUp p fl f1 f2).ctxAt k = Ctx.reset := by
  simp [State.powerUp, State.ctxAt, Vector.get_eq_getElem]

/-- The launch premises (rule R276); PROT and FLASH.BP both take PROT_RESET. -/
theorem launch_powerUp : (State.powerUp p fl f1 f2).Launch :=
  ⟨fun k => by rw [ctxAt_powerUp]; rfl, rfl, rfl, rfl, rfl, rfl, rfl, rfl, rfl, rfl⟩

theorem positions_powerUp :
    (State.powerUp p fl f1 f2).LockOk ∧ (State.powerUp p fl f1 f2).AckOk ∧ (State.powerUp p fl f1 f2).OpOk :=
  positions_of_atRest rfl fun k => by rw [ctxAt_powerUp]; exact ⟨rfl, rfl⟩

/-- The Flash is idle, so nothing has to hold LOCK for it (rule R159). -/
theorem flashHeld_powerUp : (State.powerUp p fl f1 f2).FlashHeld := fun hbusy => nomatch hbusy

/-- The contexts are those that a return of the power gives, which have recorded nothing. -/
theorem capturesOk_powerUp : (State.powerUp p fl f1 f2).CapturesOk :=
  capturesOk_congr rfl rfl (capturesOk_powerBack (State.powerUp p fl f1 f2))

end powerUp

/-- Settles O55: the reset table is `powerUp` read field by field, and the invariants hold because power-up leaves every
context at rest, LOCK free and the Flash idle; the default build meets its constraints. -/
theorem resetMeetsLaunchPremises : Obligations.ResetMeetsLaunchPremises := by
  unfold Obligations.ResetMeetsLaunchPremises
  refine ⟨?_, by decide, by decide, rfl, rfl⟩
  rintro p fl f1 f2 s rfl
  obtain ⟨hlock, hack, hop⟩ := positions_powerUp p fl f1 f2
  refine ⟨rfl, rfl, rfl, rfl, rfl, rfl, fun k => ?_, rfl, rfl, rfl, rfl, rfl, launch_powerUp p fl f1 f2, hlock, hack, hop,
    rfl, flashHeld_powerUp p fl f1 f2, ⟨rfl, rfl⟩, capturesOk_powerUp p fl f1 f2⟩
  rw [ctxAt_powerUp]
  exact ⟨rfl, rfl, rfl, rfl, rfl, rfl, rfl, rfl, rfl, rfl, rfl⟩

end Sys2Proof.Machine
